-- ==== Sys2Proof/Word.lean ====
section
/-! DEFINITION. The word types of the CHIP-8 core (spec 00_scope.md R7, R9, R10). All quantities are unsigned. -/

namespace Sys2Proof

/-- An 8-bit value: a general register, a memory cell, a timer, an immediate `kk`. -/
abbrev Byte := BitVec 8

/-- A 16-bit value: an instruction word, the program counter, the index register, a stack entry. -/
abbrev Word := BitVec 16

/-- A 12-bit absolute address, the field `nnn` (30_encoding.md R71, R73). -/
abbrev Addr12 := BitVec 12

/-- A general register number or a key number, 0 to 15 (10_state.md R21, 45_keypad.md R200). -/
abbrev Reg := Fin 16

end Sys2Proof
end

