-- ==== Sys2Proof/Config.lean ====
section
/-! DEFINITION. What the implementation fixes: the named parameters of 00_scope.md R8, each at the spec's default, and
the free values. The alternatives of a parameter are values of its type, and the operation that reads the parameter
says what each of them does. -/

namespace Sys2Proof

/-- EDGE_POLICY (R8, 44_graphics.md R182, decision D6): what a sprite cell past the edge of the grid is. -/
inductive EdgePolicy where
  | wrap
  | linear
  | clip
  deriving DecidableEq, Repr

/-- UNKNOWN_OPCODE_POLICY (R8, 30_encoding.md R77, decision D3). -/
inductive UnknownOpcodePolicy where
  | fault
  | nop
  deriving DecidableEq, Repr

/-- TIMER_COUPLING (R8, 40_decode_dispatch.md R100, decision D7). -/
inductive TimerCoupling where
  | perStep
  | hostTick
  deriving DecidableEq, Repr

/-- GLYPH_OOR (R8, 43_index_timers.md R162, decision D14): FX29 with V[x] above 15. The spec defines `multiply` only; it
names `mask` and `fault`, and what they do is the model's choice (DESIGN CHOICE, assumption log 22 and 1). -/
inductive GlyphPolicy where
  | multiply
  | mask
  | fault
  deriving DecidableEq, Repr

/-- KEY_OOR (R8, 45_keypad.md R204, decision D15): EX9E and EXA1 with V[x] above 15. -/
inductive KeyPolicy where
  | mask
  | fault
  deriving DecidableEq, Repr

/-- STACK_DEPTH (R8, 10_state.md R25, decision D5). -/
abbrev Config.stackDepth : Nat := 16

/-- The value taken of EDGE_POLICY (R8, R182). -/
def Config.edgePolicy : EdgePolicy := .wrap

/-- The value taken of UNKNOWN_OPCODE_POLICY (R8, R77). -/
def Config.unknownOpcodePolicy : UnknownOpcodePolicy := .fault

/-- The value taken of STRICT_DECODE (R8, 30_encoding.md R76, decision D4). -/
def Config.strictDecode : Bool := true

/-- The value taken of TIMER_COUPLING (R8, R96, R100). -/
def Config.timerCoupling : TimerCoupling := .perStep

/-- The value taken of GLYPH_OOR (R8, R162). -/
def Config.glyphPolicy : GlyphPolicy := .multiply

/-- The value taken of KEY_OOR (R8, R204). -/
def Config.keyPolicy : KeyPolicy := .mask

/-- RESET_FILL (R8, 10_state.md R38, decisions D11 and D12): what every memory byte outside the font, every general
register, the index register, every timer, every stack slot and every framebuffer cell holds after reset. -/
def Config.resetFill : Byte := 0x00

/-- The free value of the 8-bit input `rnd` (42_alu.md R145, decision D16, 93 U7): the byte of the n-th draw.
Nothing constrains it (assumption log 6). -/
opaque Config.rnd : Nat → Byte

/-- The free value of EDGE_POLICY = linear for a linear address past 2047, which the spec calls undefined
(44_graphics.md R182): the cell it stands for, if any. Not read under the default (assumption log 7). -/
opaque Config.undefinedCell : Nat → Option (Fin 2048)

end Sys2Proof
end

