-- ==== Sys2Proof/Syntax.lean ====
section
/-! DEFINITION. The instructions: one constructor per row of the opcode map (30_encoding.md R75, opcode_table.json), in
the table's order. Register operands are `Reg`, so that a register number above 15 cannot be written
(R80: InvalidRegisterIndex cannot arise). -/

namespace Sys2Proof

/-- The 31 instructions (30_encoding.md R75). The field `y` of 8XY6 and 8XYE is ignored by the hardware
(R79, 93 U19), so these two constructors do not carry it. -/
inductive Instr where
  /-- 00E0 -/
  | cls
  /-- 00EE -/
  | ret
  /-- 1NNN -/
  | jp (nnn : Addr12)
  /-- 2NNN -/
  | call (nnn : Addr12)
  /-- 3XKK -/
  | seImm (x : Reg) (kk : Byte)
  /-- 4XKK -/
  | sneImm (x : Reg) (kk : Byte)
  /-- 5XY0 -/
  | seReg (x y : Reg)
  /-- 6XKK -/
  | ldImm (x : Reg) (kk : Byte)
  /-- 7XKK -/
  | addImm (x : Reg) (kk : Byte)
  /-- 8XY0 -/
  | ldReg (x y : Reg)
  /-- 8XY1 -/
  | orReg (x y : Reg)
  /-- 8XY2 -/
  | andReg (x y : Reg)
  /-- 8XY3 -/
  | xorReg (x y : Reg)
  /-- 8XY4 -/
  | addReg (x y : Reg)
  /-- 8XY5 -/
  | subReg (x y : Reg)
  /-- 8XY6 -/
  | shr (x : Reg)
  /-- 8XY7 -/
  | subnReg (x y : Reg)
  /-- 8XYE -/
  | shl (x : Reg)
  /-- 9XY0 -/
  | sneReg (x y : Reg)
  /-- ANNN -/
  | ldI (nnn : Addr12)
  /-- BNNN -/
  | jpV0 (nnn : Addr12)
  /-- CXKK -/
  | rnd (x : Reg) (kk : Byte)
  /-- DXYN; `n` is the row count, 0 to 15 (WellFormed) -/
  | drw (x y : Reg) (n : Nat)
  /-- EX9E -/
  | skp (x : Reg)
  /-- EXA1 -/
  | sknp (x : Reg)
  /-- FX07 -/
  | ldVxDT (x : Reg)
  /-- FX0A -/
  | ldVxK (x : Reg)
  /-- FX15 -/
  | ldDTVx (x : Reg)
  /-- FX18 -/
  | ldSTVx (x : Reg)
  /-- FX1E -/
  | addI (x : Reg)
  /-- FX29 -/
  | ldF (x : Reg)
  deriving DecidableEq, Repr

end Sys2Proof
end

