-- ==== Sys2Proof/Decode.lean ====
section
/-! DEFINITION. The block DEC: the fields of an instruction word, the two-level dispatch, the opcode map as a table, and
the encoder (30_encoding.md R70 to R80). -/

namespace Sys2Proof

/-- Why a run of bytes is no instruction. -/
inductive DecodeError where
  /-- the word selects no row of the opcode map (30_encoding.md R77) -/
  | unknownOpcode (opcode : Word)
  /-- fewer than the two bytes of an instruction (30_encoding.md R70) -/
  | truncated
  deriving DecidableEq, Repr

/-- Big-endian: the byte at the lower address is bits 15:8 (20_memory.md R57). -/
def wordOfBytes (hi lo : Byte) : Word := hi ++ lo

/-- The first byte of a word in memory (R57). -/
def hiByte (w : Word) : Byte := w.extractLsb' 8 8

/-- The second byte of a word in memory (R57). -/
def loByte (w : Word) : Byte := w.extractLsb' 0 8

/-- The six fields of an instruction word (30_encoding.md R71). -/
structure Fields where
  op : Fin 16
  x : Reg
  y : Reg
  n : Fin 16
  kk : Byte
  nnn : Addr12
  deriving DecidableEq, Repr

/-- The nibble of `w` whose least significant bit is bit `lo`. -/
def nibbleAt (w : Word) (lo : Nat) : Fin 16 := ⟨(w.extractLsb' lo 4).toNat, (w.extractLsb' lo 4).isLt⟩

/-- Field extraction: all six fields are always extracted (R71). -/
def fields (w : Word) : Fields where
  op := nibbleAt w 12
  x := nibbleAt w 8
  y := nibbleAt w 4
  n := nibbleAt w 0
  kk := w.extractLsb' 0 8
  nnn := w.extractLsb' 0 12

/-- Family 0 selects on the whole of `nnn` (R74). -/
def dispatch0 (nnn : Addr12) : Option Instr :=
  if nnn = 0x0E0#12 then some .cls
  else if nnn = 0x0EE#12 then some .ret
  else none

/-- Families 5 and 9 have one member each and, under strict decode, require `n = 0` (R74, R76). -/
def dispatchXY0 (strict : Bool) (n : Fin 16) (i : Instr) : Option Instr :=
  if strict && decide (n ≠ 0) then none else some i

/-- Family 8 selects on `n` (R74). -/
def dispatch8 (x y : Reg) (n : Fin 16) : Option Instr :=
  match n.val with
  | 0x0 => some (.ldReg x y)
  | 0x1 => some (.orReg x y)
  | 0x2 => some (.andReg x y)
  | 0x3 => some (.xorReg x y)
  | 0x4 => some (.addReg x y)
  | 0x5 => some (.subReg x y)
  | 0x6 => some (.shr x)
  | 0x7 => some (.subnReg x y)
  | 0xE => some (.shl x)
  | _ => none

/-- Family E selects on `kk` (R74). -/
def dispatchE (x : Reg) (kk : Byte) : Option Instr :=
  if kk = 0x9E#8 then some (.skp x)
  else if kk = 0xA1#8 then some (.sknp x)
  else none

/-- Family F selects on `kk` (R74). -/
def dispatchF (x : Reg) (kk : Byte) : Option Instr :=
  if kk = 0x07#8 then some (.ldVxDT x)
  else if kk = 0x0A#8 then some (.ldVxK x)
  else if kk = 0x15#8 then some (.ldDTVx x)
  else if kk = 0x18#8 then some (.ldSTVx x)
  else if kk = 0x1E#8 then some (.addI x)
  else if kk = 0x29#8 then some (.ldF x)
  else none

/-- Dispatch by `op`, then by the family's sub-key (30_encoding.md R74, R76, 40_decode_dispatch.md R93).
`op` is a nibble, so the last arm is `op = 0xF`. -/
def dispatch (strict : Bool) (f : Fields) : Option Instr :=
  match f.op.val with
  | 0x0 => dispatch0 f.nnn
  | 0x1 => some (.jp f.nnn)
  | 0x2 => some (.call f.nnn)
  | 0x3 => some (.seImm f.x f.kk)
  | 0x4 => some (.sneImm f.x f.kk)
  | 0x5 => dispatchXY0 strict f.n (.seReg f.x f.y)
  | 0x6 => some (.ldImm f.x f.kk)
  | 0x7 => some (.addImm f.x f.kk)
  | 0x8 => dispatch8 f.x f.y f.n
  | 0x9 => dispatchXY0 strict f.n (.sneReg f.x f.y)
  | 0xA => some (.ldI f.nnn)
  | 0xB => some (.jpV0 f.nnn)
  | 0xC => some (.rnd f.x f.kk)
  | 0xD => some (.drw f.x f.y f.n.val)
  | 0xE => dispatchE f.x f.kk
  | _ => dispatchF f.x f.kk

/-- The decoder under a value of STRICT_DECODE. -/
def decodeWith (strict : Bool) (w : Word) : Except DecodeError Instr :=
  match dispatch strict (fields w) with
  | some i => .ok i
  | none => .error (.unknownOpcode w)

/-- The decoder: a pure function from the 16-bit word to an instruction or `unknownOpcode` (R93). -/
def decode (w : Word) : Except DecodeError Instr := decodeWith Config.strictDecode w

/-- Decoding a run of bytes: one instruction is two bytes, big-endian, and the rest is left (R70). -/
def decodeBytes : List Byte → Except DecodeError (Instr × List Byte)
  | hi :: lo :: rest =>
    match decode (wordOfBytes hi lo) with
    | .ok i => .ok (i, rest)
    | .error e => .error e
  | _ => .error .truncated

/-- The bytes of a word as they lie in memory (R57). -/
def bytesOfWord (w : Word) : List Byte := [hiByte w, loByte w]

/-- The word of a table row: bits above `nbits` are zero. -/
def tableWord (nbits w : Nat) : Word := BitVec.ofNat 16 (w % 2 ^ nbits)

/-- The instruction the decoder reads from the bits `w` numbered as the opcode table numbers them. -/
def decodeTableWord (nbits w : Nat) : Option Instr :=
  match decodeBytes (bytesOfWord (tableWord nbits w)) with
  | .ok (i, _) => some i
  | .error _ => none

/-! The opcode map as a table (R75), independent of the dispatch above. -/

/-- One row of the opcode map: a word `w` selects it when `w & mask == matchBits`. -/
structure OpcodeRow where
  mnemonic : String
  matchBits : Word
  mask : Word
  deriving DecidableEq, Repr

/-- `w` selects the row (R75). -/
def OpcodeRow.selects (r : OpcodeRow) (w : Word) : Bool := w &&& r.mask == r.matchBits

/-- Rows 1 to 9 of the opcode map (R75). -/
def opcodeRowsA : List OpcodeRow :=
  [⟨"CLS", 0x00E0, 0xFFFF⟩, ⟨"RET", 0x00EE, 0xFFFF⟩, ⟨"JP_nnn", 0x1000, 0xF000⟩, ⟨"CALL_nnn", 0x2000, 0xF000⟩,
   ⟨"SE_Vx__kk", 0x3000, 0xF000⟩, ⟨"SNE_Vx__kk", 0x4000, 0xF000⟩, ⟨"SE_Vx__Vy", 0x5000, 0xF00F⟩,
   ⟨"LD_Vx__kk", 0x6000, 0xF000⟩, ⟨"ADD_Vx__kk", 0x7000, 0xF000⟩]

/-- Rows 10 to 18 of the opcode map (R75). -/
def opcodeRowsB : List OpcodeRow :=
  [⟨"LD_Vx__Vy", 0x8000, 0xF00F⟩, ⟨"OR_Vx__Vy", 0x8001, 0xF00F⟩, ⟨"AND_Vx__Vy", 0x8002, 0xF00F⟩,
   ⟨"XOR_Vx__Vy", 0x8003, 0xF00F⟩, ⟨"ADD_Vx__Vy", 0x8004, 0xF00F⟩, ⟨"SUB_Vx__Vy", 0x8005, 0xF00F⟩,
   ⟨"SHR_Vx", 0x8006, 0xF00F⟩, ⟨"SUBN_Vx__Vy", 0x8007, 0xF00F⟩, ⟨"SHL_Vx", 0x800E, 0xF00F⟩]

/-- Rows 19 to 31 of the opcode map (R75). -/
def opcodeRowsC : List OpcodeRow :=
  [⟨"SNE_Vx__Vy", 0x9000, 0xF00F⟩, ⟨"LD_I__nnn", 0xA000, 0xF000⟩, ⟨"JP_V0__nnn", 0xB000, 0xF000⟩,
   ⟨"RND_Vx__kk", 0xC000, 0xF000⟩, ⟨"DRW_Vx__Vy__n", 0xD000, 0xF000⟩, ⟨"SKP_Vx", 0xE09E, 0xF0FF⟩,
   ⟨"SKNP_Vx", 0xE0A1, 0xF0FF⟩, ⟨"LD_Vx__DT", 0xF007, 0xF0FF⟩, ⟨"LD_Vx__K", 0xF00A, 0xF0FF⟩,
   ⟨"LD_DT__Vx", 0xF015, 0xF0FF⟩, ⟨"LD_ST__Vx", 0xF018, 0xF0FF⟩, ⟨"ADD_I__Vx", 0xF01E, 0xF0FF⟩,
   ⟨"LD_F__Vx", 0xF029, 0xF0FF⟩]

/-- The opcode map, 31 rows (R75, strict decode R76). -/
def opcodeMap : List OpcodeRow := opcodeRowsA ++ opcodeRowsB ++ opcodeRowsC

/-- The mnemonic of an instruction's row in the opcode map. -/
def Instr.mnemonic : Instr → String
  | .cls => "CLS"
  | .ret => "RET"
  | .jp _ => "JP_nnn"
  | .call _ => "CALL_nnn"
  | .seImm _ _ => "SE_Vx__kk"
  | .sneImm _ _ => "SNE_Vx__kk"
  | .seReg _ _ => "SE_Vx__Vy"
  | .ldImm _ _ => "LD_Vx__kk"
  | .addImm _ _ => "ADD_Vx__kk"
  | .ldReg _ _ => "LD_Vx__Vy"
  | .orReg _ _ => "OR_Vx__Vy"
  | .andReg _ _ => "AND_Vx__Vy"
  | .xorReg _ _ => "XOR_Vx__Vy"
  | .addReg _ _ => "ADD_Vx__Vy"
  | .subReg _ _ => "SUB_Vx__Vy"
  | .shr _ => "SHR_Vx"
  | .subnReg _ _ => "SUBN_Vx__Vy"
  | .shl _ => "SHL_Vx"
  | .sneReg _ _ => "SNE_Vx__Vy"
  | .ldI _ => "LD_I__nnn"
  | .jpV0 _ => "JP_V0__nnn"
  | .rnd _ _ => "RND_Vx__kk"
  | .drw _ _ _ => "DRW_Vx__Vy__n"
  | .skp _ => "SKP_Vx"
  | .sknp _ => "SKNP_Vx"
  | .ldVxDT _ => "LD_Vx__DT"
  | .ldVxK _ => "LD_Vx__K"
  | .ldDTVx _ => "LD_DT__Vx"
  | .ldSTVx _ => "LD_ST__Vx"
  | .addI _ => "ADD_I__Vx"
  | .ldF _ => "LD_F__Vx"

/-! The encoder, by the six formats of R72. -/

/-- A register number or other nibble as four bits. -/
def nib (v : Nat) : BitVec 4 := BitVec.ofNat 4 v

/-- Format NNN (R72). -/
def encNNN (op : Nat) (nnn : Addr12) : Word := nib op ++ nnn

/-- Format XKK (R72); format X is this one with a literal `kk`. -/
def encXKK (op : Nat) (x : Reg) (kk : Byte) : Word := nib op ++ nib x.val ++ kk

/-- Formats XY and XYN (R72). -/
def encXYN (op : Nat) (x y : Reg) (n : Nat) : Word := nib op ++ nib x.val ++ nib y.val ++ nib n

/-- The word of an instruction (R72, R75). The ignored `y` of 8XY6 and 8XYE is encoded as 0 (R79). -/
def encode : Instr → Word
  | .cls => encNNN 0x0 0x0E0
  | .ret => encNNN 0x0 0x0EE
  | .jp nnn => encNNN 0x1 nnn
  | .call nnn => encNNN 0x2 nnn
  | .seImm x kk => encXKK 0x3 x kk
  | .sneImm x kk => encXKK 0x4 x kk
  | .seReg x y => encXYN 0x5 x y 0x0
  | .ldImm x kk => encXKK 0x6 x kk
  | .addImm x kk => encXKK 0x7 x kk
  | .ldReg x y => encXYN 0x8 x y 0x0
  | .orReg x y => encXYN 0x8 x y 0x1
  | .andReg x y => encXYN 0x8 x y 0x2
  | .xorReg x y => encXYN 0x8 x y 0x3
  | .addReg x y => encXYN 0x8 x y 0x4
  | .subReg x y => encXYN 0x8 x y 0x5
  | .shr x => encXYN 0x8 x 0 0x6
  | .subnReg x y => encXYN 0x8 x y 0x7
  | .shl x => encXYN 0x8 x 0 0xE
  | .sneReg x y => encXYN 0x9 x y 0x0
  | .ldI nnn => encNNN 0xA nnn
  | .jpV0 nnn => encNNN 0xB nnn
  | .rnd x kk => encXKK 0xC x kk
  | .drw x y n => encXYN 0xD x y n
  | .skp x => encXKK 0xE x 0x9E
  | .sknp x => encXKK 0xE x 0xA1
  | .ldVxDT x => encXKK 0xF x 0x07
  | .ldVxK x => encXKK 0xF x 0x0A
  | .ldDTVx x => encXKK 0xF x 0x15
  | .ldSTVx x => encXKK 0xF x 0x18
  | .addI x => encXKK 0xF x 0x1E
  | .ldF x => encXKK 0xF x 0x29

end Sys2Proof
end

