-- ==== Sys2Proof/Machine/Fill.lean ====
section
/-! DEFINITION. What a value of RESET_FILL, one byte, puts into state that is wider or narrower than a byte
(00_scope.md R8, decisions D11 and D12; assumption log 21). -/

namespace Sys2Proof.Machine

/-- A 16-bit register or stack slot after reset: the byte, zero-extended (00_scope.md R8, R11). -/
def fillWord (fill : Byte) : Word := fill.setWidth 16

/-- The framebuffer after reset: every cell is bit 0 of the byte (R8). -/
def fillCells (fill : Byte) : BitVec 2048 := if fill.getLsbD 0 then BitVec.allOnes 2048 else 0

end Sys2Proof.Machine
end

