-- ==== Sys2Proof/Machine/State.lean ====
section
/-! DEFINITION. The state of the CHIP-8 core (10_state.md R20 to R38), the causes of its architectural faults, and the
reasons for which the model itself stops. -/

namespace Sys2Proof.Machine

/-- Memory: the cells that differ from what an unlisted address reads as, addresses strictly rising
(`Memory.wf` in Machine/Memory.lean; 20_memory.md R50). -/
abbrev Memory := List Host.Cell

/-- The framebuffer, 2048 one-bit cells; bit `x + 64 * y` is the cell in column `x` and row `y`
(10_state.md R29; the port `fb` of 60_exceptions.md R230 is this 2048-bit level). -/
abbrev Framebuffer := BitVec 2048

/-- The architectural faults with the information they record (60_exceptions.md R210). Taking one is a NEXT state
(`State.enterFault`, R218). InvalidRegisterIndex cannot occur (R215) and has no constructor. -/
inductive Cause where
  /-- code 1, raised by 00EE on an empty stack (R211) -/
  | stackUnderflow
  /-- code 2, raised at dispatch (R212) -/
  | unknownOpcode (opcode : Word)
  /-- code 3, raised by the fetch, DXYN and Load (R213) -/
  | outOfBounds (addr : Word)
  /-- code 4, raised by 2NNN on a full stack (R214) -/
  | stackOverflow
  deriving DecidableEq, Repr

/-- Why the MODEL stops with a fault. The four faults of the hardware are not here: they are taken, as next states.
Both reasons belong to a value of a parameter that the spec names without giving that fault a code; neither is raised
under the default values. -/
inductive Fault where
  /-- FX29 with V[x] above 15 under GLYPH_OOR = fault (00_scope.md R8); never under the default `multiply`. Safe. -/
  | glyphOutOfRange
  /-- EX9E or EXA1 with V[x] above 15 under KEY_OOR = fault (R8); never under the default `mask`. Safe. -/
  | keyOutOfRange
  deriving DecidableEq, Repr

/-- Why the MODEL gives no meaning. Apart from `notModelled` every reason is a host move outside its domain, raised by
the ports of Machine/Ports.lean and never by `step`. -/
inductive Refusal where
  /-- An instruction without a meaning, refused in its arm of `exec`; no arm is left. Safe. -/
  | notModelled (mnemonic : String)
  /-- `press` or `release` with a key above 15 (45_keypad.md R200, 93 U12). Safe. -/
  | keyArgument
  /-- `get_region` or `cell_at` outside the grid (44_graphics.md R185, R186, decision D19). Safe. -/
  | readOutsideGrid
  /-- A failing `Load` on a core that is already HALTED (20_memory.md R56, 60_exceptions.md R220). Safe. -/
  | failingLoadWhileHalted
  /-- The port `tick` exists only when TIMER_COUPLING = host_tick (60_exceptions.md R230). Safe. -/
  | noTickPort
  deriving DecidableEq, Repr

/-- The state of the core (10_state.md R20). -/
structure State where
  /-- V[0..15]; VF is V[15] (R21, R22) -/
  v : Vector Byte 16
  /-- I, the index register (R23) -/
  i : Word
  /-- the program counter (R24) -/
  pc : Word
  /-- STK[0..STACK_DEPTH-1]; the live entries are those below `sp` (R25) -/
  stk : Vector Word Config.stackDepth
  /-- SP, the number of live entries, 0 to STACK_DEPTH (R25) -/
  sp : Fin (Config.stackDepth + 1)
  /-- DT, the delay timer (R26) -/
  dt : Byte
  /-- ST, the sound timer (R27) -/
  st : Byte
  /-- K, bit `k` is 1 while key `k` is pressed; written by the host only (R28) -/
  keys : BitVec 16
  /-- FB (R29) -/
  fb : Framebuffer
  /-- MEM (R30) -/
  mem : Memory
  /-- HALTED (R31) -/
  halted : Bool
  /-- FAULT_CODE (R31) -/
  faultCode : BitVec 3
  /-- FAULT_INFO (R31) -/
  faultInfo : Word
  /-- the output `tone_end` of the Step just performed (43_index_timers.md R167; an output and not state in the spec,
  R34; assumption log 5) -/
  toneEnd : Bool
  /-- the model's own counter: how many values of the input `rnd` have been drawn (42_alu.md R145; assumption log 6) -/
  rndDraws : Nat
  deriving DecidableEq, Repr

/-- The machine right after power-up (10_state.md R38, 70_reset_and_hazards.md R240): pc at 0x200, the font in memory
(an unlisted address reads as its reset content), an empty stack, no key pressed, no fault; the registers, the timers, the
stack slots and the framebuffer hold RESET_FILL, as the memory outside the font does, and its default is 0
(00_scope.md R8, decisions D11 and D12; assumption log 3 and 21). -/
def State.reset : State where
  v := Vector.replicate 16 Config.resetFill
  i := fillWord Config.resetFill
  pc := 0x0200
  stk := Vector.replicate Config.stackDepth (fillWord Config.resetFill)
  sp := 0
  dt := Config.resetFill
  st := Config.resetFill
  keys := 0
  fb := fillCells Config.resetFill
  mem := []
  halted := false
  faultCode := 0
  faultInfo := 0
  toneEnd := false
  rndDraws := 0

/-- What executing an instruction, or a move of the host, answers. -/
abbrev Result := Host.Outcome State Fault Refusal

end Sys2Proof.Machine
end

