-- ==== Sys2Proof/Machine/Memory.lean ====
section
/-! DEFINITION. MEM: its reset contents, its access primitives and its canonical form (20_memory.md R50 to R57). -/

namespace Sys2Proof.Machine

/-- The font, one row of five bytes for each digit (20_memory.md R52, R53). The row of digit 0 is the source's, the
others are the spec's general knowledge (93 G1; assumption log 2). -/
def fontRows : List (List Byte) :=
  [[0xF0, 0x90, 0x90, 0x90, 0xF0],
   [0x20, 0x60, 0x20, 0x20, 0x70],
   [0xF0, 0x10, 0xF0, 0x80, 0xF0],
   [0xF0, 0x10, 0xF0, 0x10, 0xF0],
   [0x90, 0x90, 0xF0, 0x10, 0x10],
   [0xF0, 0x80, 0xF0, 0x10, 0xF0],
   [0xF0, 0x80, 0xF0, 0x90, 0xF0],
   [0xF0, 0x10, 0x20, 0x40, 0x40],
   [0xF0, 0x90, 0xF0, 0x90, 0xF0],
   [0xF0, 0x90, 0xF0, 0x10, 0xF0],
   [0xF0, 0x90, 0xF0, 0x90, 0x90],
   [0xE0, 0x90, 0xE0, 0x90, 0xE0],
   [0xF0, 0x80, 0x80, 0x80, 0xF0],
   [0xE0, 0x90, 0x90, 0x90, 0xE0],
   [0xF0, 0x80, 0xF0, 0x80, 0xF0],
   [0xF0, 0x80, 0xF0, 0x80, 0x80]]

/-- FONT, the 80 bytes at 0x000 to 0x04F (R52). -/
def font : List Byte := fontRows.flatten

/-- The size of MEM (R50). -/
def memSize : Nat := 0x1000

/-- Where `Load` places a program (R56). -/
def loadBase : Nat := 0x200

/-- What an address that memory does not list reads as: its reset content, the font below 0x050 and RESET_FILL
elsewhere (10_state.md R38; assumption log 4). -/
def unlisted (a : Nat) : Byte := font.getD a Config.resetFill

/-- The byte at an address. -/
def memByte (m : Memory) (a : Nat) : Byte :=
  match m with
  | [] => unlisted a
  | (k, b) :: rest => if k = a then b else memByte rest a

/-- `n` consecutive bytes, lowest address first. -/
def memBytes (m : Memory) (a : Nat) : Nat → List Byte
  | 0 => []
  | n + 1 => memByte m a :: memBytes m (a + 1) n

/-- The fault of an access to `n >= 1` bytes at `addr`, if it is out of bounds: the lowest byte address past 0xFFF
(20_memory.md R54). -/
def boundCause (addr n : Nat) : Option Cause :=
  if 0xFFF < addr + n - 1 then some (.outOfBounds (BitVec.ofNat 16 (max addr 0x1000))) else none

/-- `MemRead(addr, 2)`: the big-endian word at `addr`, or OutOfBounds (R54, R57). -/
def memRead16 (m : Memory) (addr : Nat) : Except Cause Word :=
  match boundCause addr 2 with
  | some c => .error c
  | none => .ok (wordOfBytes (memByte m addr) (memByte m (addr + 1)))

/-- `MemRead(addr, 1)` (R54). -/
def memRead8 (m : Memory) (addr : Nat) : Except Cause Byte :=
  match boundCause addr 1 with
  | some c => .error c
  | none => .ok (memByte m addr)

/-- Storing one byte and keeping the canonical form: a byte equal to what the unlisted address reads as leaves no
entry. -/
def memPut (m : Memory) (a : Nat) (b : Byte) : Memory :=
  match m with
  | [] => if b = unlisted a then [] else [(a, b)]
  | (k, c) :: rest =>
    if k < a then (k, c) :: memPut rest a b
    else if k = a then (if b = unlisted a then rest else (a, b) :: rest)
    else (if b = unlisted a then (k, c) :: rest else (a, b) :: (k, c) :: rest)

/-- `MemWrite(addr, 1, v)`, with the validation of `MemRead`; no instruction invokes it (R55). -/
def memWrite8 (m : Memory) (addr : Nat) (b : Byte) : Except Cause Memory :=
  match boundCause addr 1 with
  | some c => .error c
  | none => .ok (memPut m addr b)

/-- Copying bytes to consecutive addresses (R56). -/
def memPutAll (m : Memory) (a : Nat) (bytes : List Byte) : Memory :=
  match bytes with
  | [] => m
  | b :: rest => memPutAll (memPut m a b) (a + 1) rest

/-- The canonical form from address `lo` on: addresses strictly rising and below 0x1000, no entry equal to what the
unlisted address reads as. -/
def Memory.wfFrom (lo : Nat) (m : Memory) : Bool :=
  match m with
  | [] => true
  | (k, b) :: rest => decide (lo ≤ k) && decide (k < memSize) && decide (b ≠ unlisted k) && Memory.wfFrom (k + 1) rest

/-- Memory is in its canonical form. -/
def Memory.wf (m : Memory) : Bool := Memory.wfFrom 0 m

end Sys2Proof.Machine
end

