-- ==== Sys2Proof/Machine/Ops.lean ====
section
/-! DEFINITION. The named operations over the state: registers, program counter, stack, fault entry, the timer tick and
the fetch (40_decode_dispatch.md, 41_control_flow.md section 1, 43_index_timers.md section 3, 60_exceptions.md
section 4). -/

namespace Sys2Proof.Machine

/-- VF is V[15] (10_state.md R22). -/
def VF : Reg := 15

/-- `V[r]` (R21). -/
def State.getV (s : State) (r : Reg) : Byte := s.v[r.val]

/-- `V[r] <- b` (R21); no register is hardwired. -/
def State.setV (s : State) (r : Reg) (b : Byte) : State := { s with v := s.v.set r.val b }

/-! The three operations that change the program counter (40_decode_dispatch.md R95). The sums do not leave 16 bits for
any pc a fetch accepts (10_state.md R24; assumption log 8). -/

/-- `advance_one()`: one instruction width, 2 bytes. -/
def State.advanceOne (s : State) : State := { s with pc := s.pc + 2 }

/-- `advance_two()`: 4 bytes. -/
def State.advanceTwo (s : State) : State := { s with pc := s.pc + 4 }

/-- `jump(a)`. -/
def State.jump (s : State) (a : Word) : State := { s with pc := a }

/-- The end of a conditional skip (R95): `advance_two` if the condition holds, else `advance_one`. -/
def State.skipIf (s : State) (c : Bool) : State := if c then s.advanceTwo else s.advanceOne

/-! The stack (41_control_flow.md R110, R111). -/

/-- `Push(a)`: StackOverflow when STACK_DEPTH entries are live (R110). -/
def State.push (s : State) (a : Word) : Except Cause State :=
  if h : s.sp.val < Config.stackDepth then
    .ok { s with stk := s.stk.set s.sp.val a h, sp := ⟨s.sp.val + 1, Nat.succ_lt_succ h⟩ }
  else .error .stackOverflow

/-- `Pop()`: the top entry and the state without it, or StackUnderflow (R111). The vacated slot keeps its content,
which nothing reads (10_state.md R25; assumption log 9). -/
def State.pop (s : State) : Except Cause (Word × State) :=
  if h : 0 < s.sp.val then
    .ok (s.stk[s.sp.val - 1]'(by have := s.sp.isLt; omega),
      { s with sp := ⟨s.sp.val - 1, by have := s.sp.isLt; omega⟩ })
  else .error .stackUnderflow

/-! Faults (60_exceptions.md R210, R218). -/

/-- The code of a fault (R210). -/
def Cause.code : Cause → BitVec 3
  | .stackUnderflow => 1
  | .unknownOpcode _ => 2
  | .outOfBounds _ => 3
  | .stackOverflow => 4

/-- The information a fault records (R210). -/
def Cause.info : Cause → Word
  | .stackUnderflow => 0
  | .unknownOpcode w => w
  | .outOfBounds a => a
  | .stackOverflow => 0

/-- Fault entry: HALTED, FAULT_CODE and FAULT_INFO are written and nothing else changes (R218, R219). There is no
handler and no return from a fault (R220). -/
def State.enterFault (s : State) (c : Cause) : State :=
  { s with halted := true, faultCode := c.code, faultInfo := c.info }

/-- An instruction's rule that may raise: its new state, or fault entry from the PRE-state (40_decode_dispatch.md
R97). -/
def attempt (s : State) (r : Except Cause State) : Result :=
  match r with
  | .ok t => .next t
  | .error c => .next (s.enterFault c)

/-! The timers (43_index_timers.md R166, R167). -/

/-- A timer counts down by one and stays at 0 (10_state.md R26, R27). -/
def countDown (t : Byte) : Byte := if t = 0 then 0 else t - 1

/-- `TickTimers()` (R166). -/
def State.tickTimers (s : State) : State :=
  { s with dt := countDown s.dt, st := countDown s.st, toneEnd := decide (s.st = 1) }

/-- The end of a Step, after the instruction (or the fault entry) has been executed: a core that is HALTED does not
tick and its `tone_end` is 0 (R96, R97, R98, R167); under host_tick no Step ticks (R100). -/
def State.endStep (s : State) : State :=
  if s.halted then { s with toneEnd := false }
  else match Config.timerCoupling with
    | .perStep => s.tickTimers
    | .hostTick => { s with toneEnd := false }

/-! Fetch (40_decode_dispatch.md R91) and the unknown opcode (R93). -/

/-- The word at pc, or OutOfBounds; pc is not changed (R91). -/
def State.fetch (s : State) : Except Cause Word := memRead16 s.mem s.pc.toNat

/-- A word that selects no instruction: the fault UnknownOpcode, or `advance_one` under
UNKNOWN_OPCODE_POLICY = nop (30_encoding.md R77). -/
def State.unknownOpcode (s : State) (w : Word) : State :=
  match Config.unknownOpcodePolicy with
  | .fault => s.enterFault (.unknownOpcode w)
  | .nop => s.advanceOne

/-- `s` with the word `w` stored where the next fetch reads (big-endian at pc); unchanged when no word can be fetched
there. -/
def State.placeWord (s : State) (w : Word) : State :=
  if s.pc.toNat + 1 < memSize then { s with mem := memPutAll s.mem s.pc.toNat (bytesOfWord w) } else s

end Sys2Proof.Machine
end

