-- ==== Sys2Proof/Machine/Flags.lean ====
section
/-! DEFINITION. The flag computations (10_state.md R32, 42_alu.md R130) and the two orders in which an instruction writes
its result and VF (40_decode_dispatch.md R94, 42_alu.md R147). -/

namespace Sys2Proof.Machine

/-- `zext_8(f)` of a one-bit flag (10_state.md R22). -/
def flagByte (f : Bool) : Byte := if f then 1 else 0

/-- Carry out of bit 7 (8XY4). -/
def carryOut (a b : Byte) : Bool := decide (255 < a.toNat + b.toNat)

/-- No borrow in `a - b` (8XY5, 8XY7). -/
def noBorrow (a b : Byte) : Bool := decide (b.toNat ≤ a.toNat)

/-- The bit that a right shift by one loses (8XY6). -/
def bitOutRight (a : Byte) : Bool := a.getLsbD 0

/-- The bit that a left shift by one loses (8XYE). -/
def bitOutLeft (a : Byte) : Bool := a.getLsbD 7

/-- `V[x]` first, VF second: with x = 0xF the flag stands (R137, R147). -/
def State.resultThenFlag (s : State) (x : Reg) (r : Byte) (f : Bool) : State := (s.setV x r).setV VF (flagByte f)

/-- VF first, `V[x]` second: with x = 0xF the result stands (R138 to R141, R147). -/
def State.flagThenResult (s : State) (x : Reg) (r : Byte) (f : Bool) : State := (s.setV VF (flagByte f)).setV x r

end Sys2Proof.Machine
end

