-- ==== Sys2Proof/Machine/Operands.lean ====
section
/-! DEFINITION. The operand forms (30_encoding.md R73): zero-extended addresses, the glyph address, the key index and the
random byte. Register operands are `State.getV`; `kk` and `n` are used as they are. -/

namespace Sys2Proof.Machine

/-- `zext_16(nnn)` (R73). -/
def zext16 (nnn : Addr12) : Word := nnn.setWidth 16

/-- `char_glyph_address` under a value of GLYPH_OOR (20_memory.md R53, 43_index_timers.md R162). The spec defines the
default `multiply` only. DESIGN CHOICE, safe: `mask` takes the glyph of the low four bits of the byte (assumption log
22), and `none` is the fault of the policy `fault` (log 1); neither is reached under the default. -/
def glyphAddressOf (p : GlyphPolicy) (v : Byte) : Option Word :=
  match p with
  | .multiply => some (BitVec.ofNat 16 (5 * v.toNat))
  | .mask => some (BitVec.ofNat 16 (5 * (v.toNat % 16)))
  | .fault => if v.toNat ≤ 15 then some (BitVec.ofNat 16 (5 * v.toNat)) else none

/-- `char_glyph_address` as FX29 uses it (R162). -/
def glyphAddress (v : Byte) : Option Word := glyphAddressOf Config.glyphPolicy v

/-- The low four bits of a register, as a key number. -/
def lowNibble (v : Byte) : Reg := ⟨v.toNat % 16, Nat.mod_lt _ (by decide)⟩

/-- The key index of EX9E and EXA1 under a value of KEY_OOR (45_keypad.md R204). `none` is the fault of the policy
`fault`, to which the spec gives no code (assumption log 1); it is not reached under the default. -/
def keyIndexOf (p : KeyPolicy) (v : Byte) : Option Reg :=
  match p with
  | .mask => some (lowNibble v)
  | .fault => if v.toNat ≤ 15 then some (lowNibble v) else none

/-- The key index as EX9E and EXA1 use it (R204). -/
def keyIndex (v : Byte) : Option Reg := keyIndexOf Config.keyPolicy v

/-- `K[k]` (10_state.md R28). -/
def State.keyDown (s : State) (k : Reg) : Bool := s.keys.getLsbD k.val

/-- The key numbers in ascending order. -/
def allKeys : List Reg := [0, 1, 2, 3, 4, 5, 6, 7, 8, 9, 10, 11, 12, 13, 14, 15]

/-- `pressed_keys()`: the pressed keys in ascending order (R28). -/
def State.pressedKeys (s : State) : List Reg := allKeys.filter s.keyDown

/-- The byte on the input `rnd` at this Step: the next free value (42_alu.md R145; assumption log 6). -/
def State.rndByte (s : State) : Byte := Config.rnd s.rndDraws

/-- The next draw of `rnd` is a new one. -/
def State.drawRnd (s : State) : State := { s with rndDraws := s.rndDraws + 1 }

end Sys2Proof.Machine
end

