-- ==== Sys2Proof/Machine/Alu.lean ====
section
/-! DEFINITION. The 8-bit ALU: load, add, logic, subtract, shift, random (42_alu.md). Every operand is read from the
pre-state before anything is written (40_decode_dispatch.md R94). -/

namespace Sys2Proof.Machine

/-- 6XKK (R131). -/
def execLdImm (x : Reg) (kk : Byte) (s : State) : Result := .next (s.setV x kk).advanceOne

/-- 7XKK: the carry is lost and no flag is written (R132). -/
def execAddImm (x : Reg) (kk : Byte) (s : State) : Result := .next (s.setV x (s.getV x + kk)).advanceOne

/-- 8XY0 (R133). -/
def execLdReg (x y : Reg) (s : State) : Result := .next (s.setV x (s.getV y)).advanceOne

/-- 8XY1 (R134). -/
def execOrReg (x y : Reg) (s : State) : Result := .next (s.setV x (s.getV x ||| s.getV y)).advanceOne

/-- 8XY2 (R135). -/
def execAndReg (x y : Reg) (s : State) : Result := .next (s.setV x (s.getV x &&& s.getV y)).advanceOne

/-- 8XY3 (R136). -/
def execXorReg (x y : Reg) (s : State) : Result := .next (s.setV x (s.getV x ^^^ s.getV y)).advanceOne

/-- 8XY4 (R137). -/
def execAddReg (x y : Reg) (s : State) : Result :=
  .next (s.resultThenFlag x (s.getV x + s.getV y) (carryOut (s.getV x) (s.getV y))).advanceOne

/-- 8XY5 (R138). -/
def execSubReg (x y : Reg) (s : State) : Result :=
  .next (s.flagThenResult x (s.getV x - s.getV y) (noBorrow (s.getV x) (s.getV y))).advanceOne

/-- 8XY6 (R139): the operand is V[x]; `y` is ignored. -/
def execShr (x : Reg) (s : State) : Result :=
  .next (s.flagThenResult x (s.getV x >>> 1) (bitOutRight (s.getV x))).advanceOne

/-- 8XY7 (R140). -/
def execSubnReg (x y : Reg) (s : State) : Result :=
  .next (s.flagThenResult x (s.getV y - s.getV x) (noBorrow (s.getV y) (s.getV x))).advanceOne

/-- 8XYE (R141): the operand is V[x]; `y` is ignored. -/
def execShl (x : Reg) (s : State) : Result :=
  .next (s.flagThenResult x (s.getV x <<< 1) (bitOutLeft (s.getV x))).advanceOne

/-- CXKK: `V[x] <- kk & rnd` (R142, R145). -/
def execRnd (x : Reg) (kk : Byte) (s : State) : Result := .next (s.drawRnd.setV x (kk &&& s.rndByte)).advanceOne

end Sys2Proof.Machine
end

