-- ==== Sys2Proof/Machine/Control.lean ====
section
/-! DEFINITION. Jumps, call, return and the register skips (41_control_flow.md). -/

namespace Sys2Proof.Machine

/-- 1NNN: `jump(nnn)` (R112). -/
def execJp (nnn : Addr12) (s : State) : Result := .next (s.jump (zext16 nnn))

/-- 2NNN: push the address of this instruction, then jump (R113). -/
def execCall (nnn : Addr12) (s : State) : Result :=
  attempt s (match s.push s.pc with
    | .ok t => .ok (t.jump (zext16 nnn))
    | .error c => .error c)

/-- 00EE: pop, jump, then `advance_one` (R114). -/
def execRet (s : State) : Result :=
  attempt s (match s.pop with
    | .ok (a, t) => .ok (t.jump a).advanceOne
    | .error c => .error c)

/-- BNNN: `jump(V[0] + nnn)`, exact in 16 bits, no reduction modulo 4096 (R115). -/
def execJpV0 (nnn : Addr12) (s : State) : Result :=
  .next (s.jump (BitVec.ofNat 16 ((s.getV 0).toNat + nnn.toNat)))

/-- 3XKK (R116). -/
def execSeImm (x : Reg) (kk : Byte) (s : State) : Result := .next (s.skipIf (decide (s.getV x = kk)))

/-- 4XKK (R117). -/
def execSneImm (x : Reg) (kk : Byte) (s : State) : Result := .next (s.skipIf (decide (s.getV x ≠ kk)))

/-- 5XY0 (R118). -/
def execSeReg (x y : Reg) (s : State) : Result := .next (s.skipIf (decide (s.getV x = s.getV y)))

/-- 9XY0 (R119). -/
def execSneReg (x y : Reg) (s : State) : Result := .next (s.skipIf (decide (s.getV x ≠ s.getV y)))

end Sys2Proof.Machine
end

