-- ==== Sys2Proof/Machine/Graphics.lean ====
section
/-! DEFINITION. The framebuffer controller FBC, the XOR sprite blitter BLT, 00E0 and DXYN (44_graphics.md). -/

namespace Sys2Proof.Machine

/-- `CellAddr(cx, cy)` under a value of EDGE_POLICY (R182): the linear address of the cell in column `cx` and row `cy`,
any natural numbers; `none` is a pixel that falls on no cell. `linear` past 2047 is a free value, and `clip` is the
spec's general knowledge (93 G6; assumption log 7). -/
def cellAddrOf (p : EdgePolicy) (cx cy : Nat) : Option Nat :=
  match p with
  | .wrap => some (cx % 64 + 64 * (cy % 32))
  | .linear => if cx + 64 * cy < 2048 then some (cx + 64 * cy) else (Config.undefinedCell (cx + 64 * cy)).map Fin.val
  | .clip => if cx < 64 ∧ cy < 32 then some (cx + 64 * cy) else none

/-- `CellAddr(cx, cy)` as the blitter uses it (R182). -/
def cellAddr (cx cy : Nat) : Option Nat := cellAddrOf Config.edgePolicy cx cy

/-- The framebuffer during a draw, with the collision seen so far. -/
structure Blit where
  fb : Framebuffer
  hit : Bool
  deriving DecidableEq, Repr

/-- Toggling one cell; a cell that was on is a collision (R183). -/
def Blit.toggle (b : Blit) (a : Nat) : Blit where
  fb := b.fb ^^^ BitVec.twoPow 2048 a
  hit := b.hit || b.fb.getLsbD a

/-- One pixel of a sprite row: column `col` is bit `7 - col` of the pattern; a 0 bit touches nothing (R183). -/
def Blit.pixel (x0 y0 : Nat) (p : Byte) (b : Blit) (col : Nat) : Blit :=
  if p.getLsbD (7 - col) then
    match cellAddr (x0 + col) y0 with
    | some a => b.toggle a
    | none => b
  else b

/-- The eight columns of a sprite row, left to right. -/
def spriteCols : List Nat := [0, 1, 2, 3, 4, 5, 6, 7]

/-- `SetSpriteRow(x0, y0, p)`: the new framebuffer and whether this call collided (R183). -/
def setSpriteRow (x0 y0 : Nat) (p : Byte) (fb : Framebuffer) : Blit :=
  spriteCols.foldl (Blit.pixel x0 y0 p) ⟨fb, false⟩

/-- The rows of a sprite, top to bottom: the collision is the OR over the rows (R187). -/
def drawRows (vx vy : Nat) (rows : List Byte) (b : Blit) : Blit :=
  match rows with
  | [] => b
  | p :: rest =>
    drawRows vx (vy + 1) rest
      { fb := (setSpriteRow vx vy p b.fb).fb, hit := b.hit || (setSpriteRow vx vy p b.fb).hit }

/-- The fault of DXYN: the last sprite byte lies past 0xFFF. The whole range is checked before anything is drawn
(R187, decision D24). -/
def spriteCause (base n : Nat) : Option Cause :=
  if 1 ≤ n ∧ 0xFFF < base + n - 1 then some (.outOfBounds 0x1000) else none

/-- What DXYN draws: `n` rows from memory at I, at column V[x] and row V[y] of the pre-state (R187, R188). -/
def State.blit (s : State) (x y : Reg) (n : Nat) : Blit :=
  drawRows (s.getV x).toNat (s.getV y).toNat (memBytes s.mem s.i.toNat n) ⟨s.fb, false⟩

/-- `clear()` (R181). -/
def State.clearFb (s : State) : State := { s with fb := 0 }

/-- 00E0 (R184). -/
def execCls (s : State) : Result := .next s.clearFb.advanceOne

/-- DXYN (R187, R188). -/
def execDrw (x y : Reg) (n : Nat) (s : State) : Result :=
  attempt s (match spriteCause s.i.toNat n with
    | some c => .error c
    | none => .ok ({ s with fb := (s.blit x y n).fb }.setV VF (flagByte (s.blit x y n).hit)).advanceOne)

end Sys2Proof.Machine
end

