-- ==== Sys2Proof/Machine/IndexTimer.lean ====
section
/-! DEFINITION. The index register and the timer instructions (43_index_timers.md sections 1 and 2). -/

namespace Sys2Proof.Machine

/-- ANNN (R160). -/
def execLdI (nnn : Addr12) (s : State) : Result := .next { s with i := zext16 nnn }.advanceOne

/-- FX1E: modulo 4096, no flag (R161). -/
def execAddI (x : Reg) (s : State) : Result :=
  .next { s with i := BitVec.ofNat 16 ((s.i.toNat + (s.getV x).toNat) % 4096) }.advanceOne

/-- FX29: the address of the glyph of V[x] (R162). The fault arises only under GLYPH_OOR = fault. -/
def execLdF (x : Reg) (s : State) : Result :=
  match glyphAddress (s.getV x) with
  | some a => .next { s with i := a }.advanceOne
  | none => .fault .glyphOutOfRange

/-- FX07: the value before this Step's tick (R163). -/
def execLdVxDT (x : Reg) (s : State) : Result := .next (s.setV x s.dt).advanceOne

/-- FX15 (R164). -/
def execLdDTVx (x : Reg) (s : State) : Result := .next { s with dt := s.getV x }.advanceOne

/-- FX18 (R165). -/
def execLdSTVx (x : Reg) (s : State) : Result := .next { s with st := s.getV x }.advanceOne

end Sys2Proof.Machine
end

