-- ==== Sys2Proof/Machine/Keypad.lean ====
section
/-! DEFINITION. The key instructions (45_keypad.md). -/

namespace Sys2Proof.Machine

/-- EX9E (R201). The fault arises only under KEY_OOR = fault. -/
def execSkp (x : Reg) (s : State) : Result :=
  match keyIndex (s.getV x) with
  | some k => .next (s.skipIf (s.keyDown k))
  | none => .fault .keyOutOfRange

/-- EXA1 (R202). The fault arises only under KEY_OOR = fault. -/
def execSknp (x : Reg) (s : State) : Result :=
  match keyIndex (s.getV x) with
  | some k => .next (s.skipIf (!s.keyDown k))
  | none => .fault .keyOutOfRange

/-- FX0A: with no key pressed nothing changes and pc stays; else the lowest pressed key and `advance_one` (R203). -/
def execLdVxK (x : Reg) (s : State) : Result :=
  match s.pressedKeys with
  | [] => .next s
  | k :: _ => .next (s.setV x (BitVec.ofNat 8 k.val)).advanceOne

end Sys2Proof.Machine
end

