-- ==== Sys2Proof/Machine/Execute.lean ====
section
/-! DEFINITION. The Step of 40_decode_dispatch.md R90 in its two parts: ExecuteInstruction (R100) and the end of the
Step (`State.endStep`). -/

namespace Sys2Proof.Machine

/-- Dispatch and execute a fetched word (R92, R93). -/
def executeWord (w : Word) (s : State) : Result :=
  match decode w with
  | .ok i => exec i s
  | .error _ => .next (s.unknownOpcode w)

/-- `ExecuteInstruction`: the Step without the tick (R90, R100). A core that is HALTED does nothing (R98). -/
def executeInstruction (s : State) : Result :=
  if s.halted then .next s
  else match s.fetch with
    | .error c => .next (s.enterFault c)
    | .ok w => executeWord w s

/-- The Step ends the same way whatever was executed (R96). -/
def finish (r : Result) : Result :=
  match r with
  | .next s => .next s.endStep
  | .fault f => .fault f
  | .refused f => .refused f

end Sys2Proof.Machine
end

