-- ==== Sys2Proof/Machine/Step.lean ====
section
/-! DEFINITION. The Step (40_decode_dispatch.md R90) and the placing of a word where the next Step fetches. -/

namespace Sys2Proof.Machine

/-- One Step: one instruction and then one timer tick, atomic with respect to the host (R90, 00_scope.md R6). -/
def step (s : State) : Host.Outcome State Fault Refusal := finish (executeInstruction s)

/-- `s` with the instruction word of a table row stored where `step` fetches next. It stands for the host's `Load`
(20_memory.md R56), which is how a program gets into memory (assumption log 10). -/
def State.withFetchWord (s : State) (nbits w : Nat) : State := s.placeWord (tableWord nbits w)

end Sys2Proof.Machine
end

