-- ==== Sys2Proof/Machine/Ports.lean ====
section
/-! DEFINITION. The moves of the host, all between Steps (60_exceptions.md R230, R231): Reset, Load, press, release, tick,
and the reads. A move outside its domain is refused (93 U12). The move Step is `step`; `rnd` is a free value. -/

namespace Sys2Proof.Machine

/-- Reset: every piece of state to its reset value, but K, which is the host's (70_reset_and_hazards.md R240, C13). The
model's counter of draws goes on, so that later draws are new ones. -/
def portReset (s : State) : State := { State.reset with keys := s.keys, rndDraws := s.rndDraws }

/-- `Load(bytes)`: all or nothing at 0x200; an overflow latches OutOfBounds(0x1000), and is refused on a core that is
already HALTED (20_memory.md R56, decision D17). -/
def portLoad (bytes : List Byte) (s : State) : Result :=
  if loadBase + bytes.length ≤ memSize then .next { s with mem := memPutAll s.mem loadBase bytes }
  else if s.halted then .refused .failingLoadWhileHalted
  else .next (s.enterFault (.outOfBounds 0x1000))

/-- `press(k)` (45_keypad.md R200). -/
def portPress (k : Nat) (s : State) : Result :=
  if k < 16 then .next { s with keys := s.keys ||| BitVec.twoPow 16 k } else .refused .keyArgument

/-- `release(k)` (R200). -/
def portRelease (k : Nat) (s : State) : Result :=
  if k < 16 then .next { s with keys := s.keys &&& ~~~(BitVec.twoPow 16 k) } else .refused .keyArgument

/-- The move `tick` of TIMER_COUPLING = host_tick, ignored while HALTED (40_decode_dispatch.md R100). -/
def portTickOf (c : TimerCoupling) (s : State) : Result :=
  match c with
  | .perStep => .refused .noTickPort
  | .hostTick => if s.halted then .next s else .next s.tickTimers

/-- The move `tick` as the machine has it (R230). -/
def portTick (s : State) : Result := portTickOf Config.timerCoupling s

/-- `FB[a]` as a bit. -/
def State.cell (s : State) (a : Nat) : Bool := s.fb.getLsbD a

/-- `get_region(x, y, length)`: linear, without wrap, refused outside the grid (44_graphics.md R185). -/
def getRegion (s : State) (x y length : Nat) : Except Refusal (List Bool) :=
  if x + 64 * y + length ≤ 2048 then .ok ((List.range length).map (fun j => s.cell (x + 64 * y + j)))
  else .error .readOutsideGrid

/-- `cell_at(x, y)` for the host to read (R186). -/
def cellAt (s : State) (x y : Nat) : Except Refusal Bool :=
  if x ≤ 63 ∧ y ≤ 31 then .ok (s.cell (x + 64 * y)) else .error .readOutsideGrid

/-- `is_pressed(key)` (10_state.md R28). -/
def isPressed (s : State) (k : Nat) : Except Refusal Bool :=
  if k < 16 then .ok (s.keys.getLsbD k) else .error .keyArgument

/-- `snd_on`, the level `ST > 0` (43_index_timers.md R167). -/
def soundOn (s : State) : Bool := decide (0 < s.st.toNat)

end Sys2Proof.Machine
end

