-- ==== Sys2Proof/Safety.lean ====
section
/-! DEFINITION. The terms in which claims about the machine are stated: what two states share, the write set of each
instruction (10_state.md R36), the invariant of every run, a fault-free state, and the idle loop
(40_decode_dispatch.md R101). -/

namespace Sys2Proof.Machine

/-- The pieces of state other than the general registers (10_state.md R20), as units of a frame. -/
inductive Part where
  | i
  | pc
  | stack
  | dt
  | st
  | keys
  | fb
  | mem
  | latch
  | toneEnd
  | rndDraws
  deriving DecidableEq, Repr

/-- `t` holds in the part `p` what `s` holds there; memory is compared byte by byte through `memByte`. -/
def State.sameIn (s t : State) (p : Part) : Prop :=
  match p with
  | .i => t.i = s.i
  | .pc => t.pc = s.pc
  | .stack => t.sp = s.sp ∧ t.stk = s.stk
  | .dt => t.dt = s.dt
  | .st => t.st = s.st
  | .keys => t.keys = s.keys
  | .fb => t.fb = s.fb
  | .mem => ∀ a, memByte t.mem a = memByte s.mem a
  | .latch => t.halted = s.halted ∧ t.faultCode = s.faultCode ∧ t.faultInfo = s.faultInfo
  | .toneEnd => t.toneEnd = s.toneEnd
  | .rndDraws => t.rndDraws = s.rndDraws

/-- From `s` to `t` no general register changes but those of `regs`, and no other part but those of `parts`. -/
def State.changesOnly (s t : State) (regs : List Reg) (parts : List Part) : Prop :=
  (∀ r, r ∉ regs → t.getV r = s.getV r) ∧ ∀ p, p ∉ parts → s.sameIn t p

end Sys2Proof.Machine

namespace Sys2Proof

open Machine

/-- The general registers an instruction writes (R36). -/
def Instr.writesV : Instr → List Reg
  | .ldImm x _ => [x]
  | .addImm x _ => [x]
  | .ldReg x _ => [x]
  | .orReg x _ => [x]
  | .andReg x _ => [x]
  | .xorReg x _ => [x]
  | .addReg x _ => [x, VF]
  | .subReg x _ => [x, VF]
  | .shr x => [x, VF]
  | .subnReg x _ => [x, VF]
  | .shl x => [x, VF]
  | .rnd x _ => [x]
  | .drw _ _ _ => [VF]
  | .ldVxDT x => [x]
  | .ldVxK x => [x]
  | .cls => []
  | .ret => []
  | .jp _ => []
  | .call _ => []
  | .seImm _ _ => []
  | .sneImm _ _ => []
  | .seReg _ _ => []
  | .sneReg _ _ => []
  | .ldI _ => []
  | .jpV0 _ => []
  | .skp _ => []
  | .sknp _ => []
  | .ldDTVx _ => []
  | .ldSTVx _ => []
  | .addI _ => []
  | .ldF _ => []

/-- The other parts an instruction writes, pc apart, when it raises no fault (R36); CXKK also advances the model's own
counter of draws. -/
def Instr.writesPart : Instr → List Part
  | .cls => [.fb]
  | .ret => [.stack]
  | .call _ => [.stack]
  | .ldI _ => [.i]
  | .addI _ => [.i]
  | .ldF _ => [.i]
  | .drw _ _ _ => [.fb]
  | .ldDTVx _ => [.dt]
  | .ldSTVx _ => [.st]
  | .rnd _ _ => [.rndDraws]
  | .jp _ => []
  | .seImm _ _ => []
  | .sneImm _ _ => []
  | .seReg _ _ => []
  | .sneReg _ _ => []
  | .ldImm _ _ => []
  | .addImm _ _ => []
  | .ldReg _ _ => []
  | .orReg _ _ => []
  | .andReg _ _ => []
  | .xorReg _ _ => []
  | .addReg _ _ => []
  | .subReg _ _ => []
  | .shr _ => []
  | .subnReg _ _ => []
  | .shl _ => []
  | .jpV0 _ => []
  | .skp _ => []
  | .sknp _ => []
  | .ldVxDT _ => []
  | .ldVxK _ => []

end Sys2Proof

namespace Sys2Proof.Machine

/-- What holds in every state of every run: I has 12 significant bits (10_state.md R23), pc is at most 0x10FE (R24), a
live stack entry is the address of a fetched instruction (41_control_flow.md R114), memory is in its canonical form, and
the latch holds a cause exactly while HALTED (60_exceptions.md R210). -/
structure State.Inv (s : State) : Prop where
  i_le : s.i.toNat ≤ 0xFFF
  pc_le : s.pc.toNat ≤ 0x10FE
  stk_le : ∀ (j : Nat) (h : j < Config.stackDepth), j < s.sp.val → (s.stk[j]'h).toNat ≤ 0xFFE
  mem_wf : Memory.wf s.mem = true
  running : s.halted = false → s.faultCode = 0 ∧ s.faultInfo = 0
  stopped : s.halted = true → 1 ≤ s.faultCode.toNat ∧ s.faultCode.toNat ≤ 4

/-- Every word with these bits decodes to the instruction made of its fields: one row of the opcode map, read whole
(30_encoding.md R71, R75). -/
def DecodesAs (matchBits mask : Word) (ofFields : Fields → Instr) : Prop :=
  ∀ w : Word, w &&& mask = matchBits → decode w = .ok (ofFields (fields w))

/-- The core is running, a word can be fetched at pc, and it decodes to `i` (40_decode_dispatch.md R91 to R93). -/
structure State.NextInstr (s : State) (i : Instr) : Prop where
  running : s.halted = false
  fetchable : s.pc.toNat ≤ 0xFFE
  decodes : decode (wordOfBytes (memByte s.mem s.pc.toNat) (memByte s.mem (s.pc.toNat + 1))) = .ok i

/-- Every byte of an `n`-row sprite at I lies in MEM (44_graphics.md R187). -/
def State.SpriteFits (s : State) (n : Nat) : Prop := n = 0 ∨ s.i.toNat + n ≤ 0x1000

/-- Some pixel of the sprite that DXYN draws from `s` is 1 and falls on cell `a`: row `row`, column `col` of the sprite
is bit `7 - col` of the byte at `I + row`, and its cell wraps at the edges (44_graphics.md R182, R183, R187). -/
def State.SpriteOn (s : State) (x y : Reg) (n a : Nat) : Prop :=
  ∃ row col, row < n ∧ col < 8 ∧ a = ((s.getV x).toNat + col) % 64 + 64 * (((s.getV y).toNat + row) % 32) ∧
    (memByte s.mem (s.i.toNat + row)).getLsbD (7 - col) = true

/-- A safe state: no fault has been taken. -/
abbrev State.FaultFree (s : State) : Prop := s.halted = false

/-- The program has reached its idle loop at address `a` (40_decode_dispatch.md R101, decision D26). -/
structure State.IdleAt (s : State) (a : Nat) : Prop where
  fetchable : a ≤ 0xFFE
  pc_eq : s.pc.toNat = a
  first : memByte s.mem a = BitVec.ofNat 8 (0x10 ||| (a >>> 8))
  second : memByte s.mem (a + 1) = BitVec.ofNat 8 (a &&& 0xFF)
  running : s.halted = false

end Sys2Proof.Machine
end

