-- ==== Sys2Proof/Certificates/Slice0/Obligations.lean ====
section
/-! DEFINITION. The statements for the provers. Each says which rule or section of spec/ it formalises. Where a
statement rests on a decision of 92_eei_decisions.md, its docstring names the decision. -/

open Sys2Proof Sys2Proof.Machine

/-! Encoding -/

/-- One word of each family, written out from 30_encoding.md section 3 and the examples of the instruction rules,
decodes to the instruction it stands for, and an unknown word of family 0 is refused by name. -/
def Obligations.WordsOfEveryFamilyDecode : Prop :=
  decode 0x00E0 = .ok .cls ∧ decode 0x00EE = .ok .ret ∧ decode 0x1542 = .ok (.jp 0x542) ∧
  decode 0x2542 = .ok (.call 0x542) ∧ decode 0x332A = .ok (.seImm 3 0x2A) ∧ decode 0x432B = .ok (.sneImm 3 0x2B) ∧
  decode 0x5120 = .ok (.seReg 1 2) ∧ decode 0x6A2A = .ok (.ldImm 10 0x2A) ∧ decode 0x7005 = .ok (.addImm 0 0x05) ∧
  decode 0x8745 = .ok (.subReg 7 4) ∧ decode 0x9120 = .ok (.sneReg 1 2) ∧ decode 0xA050 = .ok (.ldI 0x050) ∧
  decode 0xB300 = .ok (.jpV0 0x300) ∧ decode 0xC10D = .ok (.rnd 1 0x0D) ∧ decode 0xD233 = .ok (.drw 2 3 3) ∧
  decode 0xE29E = .ok (.skp 2) ∧ decode 0xF21E = .ok (.addI 2) ∧ decode 0x0000 = .error (.unknownOpcode 0x0000)

/-- Decoding the word of a well-formed instruction gives the instruction back, with every operand at every value its
field admits (30_encoding.md sections 1 to 3). -/
def Obligations.DecodeOfEncodeIsTheInstruction : Prop :=
  ∀ i : Instr, i.WellFormed → decode (encode i) = .ok i

/-- R71: the six fields of a word, as shifts and masks of the word read as a number. -/
def Obligations.FieldsOfAWord : Prop :=
  ∀ w : Word,
    (fields w).op.val = w.toNat >>> 12 ∧ (fields w).x.val = (w.toNat >>> 8) &&& 0xF ∧
    (fields w).y.val = (w.toNat >>> 4) &&& 0xF ∧ (fields w).n.val = w.toNat &&& 0xF ∧
    (fields w).kk.toNat = w.toNat &&& 0xFF ∧ (fields w).nnn.toNat = w.toNat &&& 0xFFF ∧
    (fields w).kk.toNat = 16 * (fields w).y.val + (fields w).n.val ∧
    (fields w).nnn.toNat = 256 * (fields w).x.val + (fields w).kk.toNat

/-- R75: the map has 31 rows, no word selects two of them, and the decoder answers an instruction of a row exactly for
the words that select the row. -/
def Obligations.DecoderFollowsTheOpcodeMap : Prop :=
  opcodeMap.length = 31 ∧
  (∀ (w : Word) (r q : OpcodeRow), r ∈ opcodeMap → q ∈ opcodeMap → r.selects w = true → q.selects w = true → r = q) ∧
  (∀ (w : Word) (i : Instr), decode w = .ok i →
    ∃ r, r ∈ opcodeMap ∧ r.mnemonic = i.mnemonic ∧ r.selects w = true) ∧
  (∀ (w : Word) (r : OpcodeRow), r ∈ opcodeMap → r.selects w = true →
    ∃ i, decode w = .ok i ∧ i.mnemonic = r.mnemonic)

/-- The unknown space, family by family, under strict decode (30_encoding.md section 4; the spec's decisions D4 and
D22): a word is refused, by its own name, exactly when it stands in the table of R77. -/
def Obligations.UnknownWordsByFamily : Prop :=
  ∀ w : Word, decode w = .error (.unknownOpcode w) ↔
    ((fields w).op.val = 0x0 ∧ (fields w).nnn ≠ 0x0E0 ∧ (fields w).nnn ≠ 0x0EE) ∨
    ((fields w).op.val = 0x5 ∧ (fields w).n.val ≠ 0) ∨
    ((fields w).op.val = 0x8 ∧ 8 ≤ (fields w).n.val ∧ (fields w).n.val ≠ 0xE) ∨
    ((fields w).op.val = 0x9 ∧ (fields w).n.val ≠ 0) ∨
    ((fields w).op.val = 0xE ∧ (fields w).kk ≠ 0x9E ∧ (fields w).kk ≠ 0xA1) ∨
    ((fields w).op.val = 0xF ∧ (fields w).kk ≠ 0x07 ∧ (fields w).kk ≠ 0x0A ∧ (fields w).kk ≠ 0x15 ∧
      (fields w).kk ≠ 0x18 ∧ (fields w).kk ≠ 0x1E ∧ (fields w).kk ≠ 0x29)

/-- R79: the 16 words of one 8XY6 (or 8XYE) that differ in `y` are one instruction; in every other instruction every
field is used, so the word can be read back from the instruction. -/
def Obligations.OnlyTheShiftsIgnoreAField : Prop :=
  (∀ x y : Reg, decode (encXYN 0x8 x y 0x6) = .ok (.shr x)) ∧
  (∀ x y : Reg, decode (encXYN 0x8 x y 0xE) = .ok (.shl x)) ∧
  (∀ (w : Word) (i : Instr), decode w = .ok i → (∀ x, i ≠ .shr x) → (∀ x, i ≠ .shl x) → encode i = w)

/-! The Step -/

/-- When the bytes at pc decode to `i`, a Step of a running core is `exec i` and then the end of the Step: the tick if no
fault was raised, and a cleared output pulse if one was (40_decode_dispatch.md sections 1 and 4). -/
def Obligations.StepRunsTheDecodedInstruction : Prop :=
  ∀ (s : State) (i : Instr), s.NextInstr i →
    executeInstruction s = exec i s ∧
    ∀ t, exec i s = .next t →
      (t.halted = false → step s = .next t.tickTimers) ∧
      (t.halted = true → step s = .next { t with toneEnd := false })

/-- R91: a fetch in bounds reads the big-endian word at pc, whatever the alignment, and a fetch out of bounds raises
OutOfBounds with the first offending byte address. -/
def Obligations.FetchReadsTheWordAtPc : Prop :=
  ∀ s : State,
    (s.pc.toNat ≤ 0xFFE → ∃ w, s.fetch = .ok w ∧
      w.toNat = 256 * (memByte s.mem s.pc.toNat).toNat + (memByte s.mem (s.pc.toNat + 1)).toNat) ∧
    (0xFFF ≤ s.pc.toNat → s.fetch = .error (.outOfBounds (BitVec.ofNat 16 (max s.pc.toNat 0x1000))))

/-- Fault entry writes the latch and nothing else; the codes are the spec's decision D10, the latch its D9, and that
nothing else changes its D8 (60_exceptions.md sections 1 and 4). -/
def Obligations.FaultEntryWritesOnlyTheLatch : Prop :=
  (∀ (s : State) (c : Cause), (s.enterFault c).halted = true ∧ s.changesOnly (s.enterFault c) [] [.latch]) ∧
  ∀ (s : State) (w : Word),
    (s.enterFault .stackUnderflow).faultCode.toNat = 1 ∧ (s.enterFault .stackUnderflow).faultInfo = 0 ∧
    (s.enterFault (.unknownOpcode w)).faultCode.toNat = 2 ∧ (s.enterFault (.unknownOpcode w)).faultInfo = w ∧
    (s.enterFault (.outOfBounds w)).faultCode.toNat = 3 ∧ (s.enterFault (.outOfBounds w)).faultInfo = w ∧
    (s.enterFault .stackOverflow).faultCode.toNat = 4 ∧ (s.enterFault .stackOverflow).faultInfo = 0

/-- A fetch out of bounds, and a word that selects no instruction, halt the core at the Step that meets them, and nothing
but the latch and the output pulse changes (60_exceptions.md section 1; the spec's decisions D3, D8, D10). -/
def Obligations.FaultsBeforeDispatchHaltTheCore : Prop :=
  (∀ s : State, s.halted = false → 0xFFF ≤ s.pc.toNat →
    ∃ t, step s = .next t ∧ t.halted = true ∧ t.faultCode.toNat = 3 ∧ t.faultInfo.toNat = max s.pc.toNat 0x1000 ∧
      t.toneEnd = false ∧ s.changesOnly t [] [.latch, .toneEnd]) ∧
  ∀ s : State, s.halted = false → s.pc.toNat ≤ 0xFFE →
    decode (wordOfBytes (memByte s.mem s.pc.toNat) (memByte s.mem (s.pc.toNat + 1))) =
      .error (.unknownOpcode (wordOfBytes (memByte s.mem s.pc.toNat) (memByte s.mem (s.pc.toNat + 1)))) →
    ∃ t, step s = .next t ∧ t.halted = true ∧ t.faultCode.toNat = 2 ∧
      t.faultInfo = wordOfBytes (memByte s.mem s.pc.toNat) (memByte s.mem (s.pc.toNat + 1)) ∧ t.toneEnd = false ∧
      s.changesOnly t [] [.latch, .toneEnd]

/-- While HALTED a Step changes nothing and its output pulse is 0; Reset clears HALTED (40_decode_dispatch.md section 4;
the spec's decision D9). -/
def Obligations.HaltedCoreDoesNothing : Prop :=
  (∀ s : State, s.halted = true →
    ∃ t, step s = .next t ∧ t.toneEnd = false ∧ s.changesOnly t [] [.toneEnd]) ∧
  ∀ s : State, (portReset s).halted = false

/-- Faults are precise: a Step that raises one changes the latch only, its output pulse is 0, and the latch holds one of
the four causes (40_decode_dispatch.md section 4, 60_exceptions.md sections 1 and 4; the spec's decisions D8 and D10). -/
def Obligations.FaultingStepChangesOnlyTheLatch : Prop :=
  ∀ s t : State, s.halted = false → step s = .next t → t.halted = true →
    t.toneEnd = false ∧ s.changesOnly t [] [.latch, .toneEnd] ∧ 1 ≤ t.faultCode.toNat ∧ t.faultCode.toNat ≤ 4

/-- A Step has a next state in every state whatever: the model itself never stops (40_decode_dispatch.md section 1). -/
def Obligations.EveryStepHasANextState : Prop := ∀ s : State, ∃ t, step s = .next t

/-- The write sets as a frame for every instruction, without fault or with fault entry (10_state.md section 8, marked
derived there; the counter of draws is the model's own, log entry 6). -/
def Obligations.WriteSetOfEveryInstruction : Prop :=
  ∀ (i : Instr) (s t : State), exec i s = .next t →
    s.changesOnly t i.writesV (.pc :: i.writesPart) ∨ ∃ c, t = s.enterFault c

/-- The same for a whole Step: the write set of the instruction, and DT, ST and the output pulse through the tick
(10_state.md section 8, marked derived there). -/
def Obligations.WriteSetOfEveryStep : Prop :=
  ∀ (i : Instr) (s t : State), s.NextInstr i → step s = .next t → t.halted = false →
    s.changesOnly t i.writesV (.pc :: .dt :: .st :: .toneEnd :: i.writesPart)

/-- No Step writes MEM or K, whatever it executes (10_state.md sections 6 and 8, 20_memory.md section 3). -/
def Obligations.NoStepWritesMemoryOrKeys : Prop :=
  ∀ s t : State, step s = .next t → t.mem = s.mem ∧ t.keys = s.keys

/-- VF changes in no instruction but the six that write it as a flag, unless their destination is VF itself; those six
leave 0 or 1 in it when their X field is not 0xF, and DXYN does always (10_state.md sections 2 and 5). -/
def Obligations.OnlyFlagWritersTouchVF : Prop :=
  (∀ (i : Instr) (s t : State), exec i s = .next t → VF ∉ i.writesV → t.getV VF = s.getV VF) ∧
  (∀ (x y : Reg) (s t : State), x ≠ VF →
    exec (.addReg x y) s = .next t ∨ exec (.subReg x y) s = .next t ∨ exec (.shr x) s = .next t ∨
      exec (.subnReg x y) s = .next t ∨ exec (.shl x) s = .next t →
    t.getV VF = 0 ∨ t.getV VF = 1) ∧
  (∀ (x y : Reg) (n : Nat) (s : State), s.SpriteFits n →
    ∃ t, exec (.drw x y n) s = .next t ∧ (t.getV VF = 0 ∨ t.getV VF = 1))

/-- The idle loop: from a 1NNN that jumps to itself every Step leaves all state but DT, ST and the output pulse as it is,
and the core stays in the loop (40_decode_dispatch.md section 4; the spec's decision D26). -/
def Obligations.IdleLoopStaysIdle : Prop :=
  ∀ (s : State) (a : Nat), s.IdleAt a →
    ∃ t, step s = .next t ∧ t.IdleAt a ∧ s.changesOnly t [] [.dt, .st, .toneEnd]

/-! Invariants and reset -/

/-- The invariant of every run holds in the reset state. Apart from pc and the font this rests on the reset values that
the spec decided and the model takes (10_state.md section 9; the spec's decisions D9 to D12; log entries 3 and 4): I, SP
and the latch are 0, and memory lists nothing. -/
def Obligations.ResetSatisfiesTheInvariant : Prop := State.reset.Inv

/-- Every Step keeps the invariant: I has 12 significant bits, pc is at most 0x10FE, the live stack entries are addresses
of fetched instructions, memory is canonical, and the latch holds a cause exactly while HALTED (10_state.md sections 3
and 4, marked derived there). -/
def Obligations.StepKeepsTheInvariant : Prop := ∀ s t : State, s.Inv → step s = .next t → t.Inv

/-- R241: the program counter is 0x200 after every reset, so the first instruction fetched is the first word of the
loaded program. -/
def Obligations.EntryPointIsTheLoadedProgram : Prop :=
  State.reset.pc = 0x200 ∧ (∀ s : State, (portReset s).pc = 0x200) ∧
  ∀ (s : State) (b0 b1 : Byte) (rest : List Byte), rest.length ≤ 3582 →
    ∃ t, portLoad (b0 :: b1 :: rest) (portReset s) = .next t ∧ t.pc = 0x200 ∧ t.fetch = .ok (wordOfBytes b0 b1)

/-- What Reset leaves, apart from pc and the font, is the spec's own choice (10_state.md section 9; its decisions D9 to
D12, D21 and D23; log entries 3, 4, 5 and 17): zero everywhere, the default of RESET_FILL, and K as the host left it. The
counter of draws is the model's own. -/
def Obligations.ResetClearsEverythingButKeys : Prop :=
  ∀ s : State,
    (∀ r, (portReset s).getV r = 0) ∧ (portReset s).i = 0 ∧ (portReset s).sp.val = 0 ∧
    (∀ (j : Nat) (h : j < Config.stackDepth), (portReset s).stk[j]'h = 0) ∧
    (portReset s).dt = 0 ∧ (portReset s).st = 0 ∧ (∀ a, (portReset s).cell a = false) ∧
    (∀ a, 0x050 ≤ a → memByte (portReset s).mem a = 0) ∧
    (portReset s).halted = false ∧ (portReset s).faultCode = 0 ∧ (portReset s).faultInfo = 0 ∧
    (portReset s).toneEnd = false ∧ (portReset s).keys = s.keys ∧ State.reset.keys = 0

/-- The font is in place after reset, five bytes a digit from 5 * digit, the low nibble of each byte 0, digit 0 as the
source prints it, and no Step changes a byte of it (20_memory.md section 2; the rows of the other digits are the spec's
general knowledge). -/
def Obligations.FontIsInPlaceAndStays : Prop :=
  memBytes State.reset.mem 0 5 = [0xF0, 0x90, 0x90, 0x90, 0xF0] ∧
  (∀ d row : Nat, d < 16 → row < 5 → (memByte State.reset.mem (5 * d + row)).toNat % 16 = 0) ∧
  (∀ s : State, ∀ a, a < 0x050 → memByte (portReset s).mem a = memByte State.reset.mem a) ∧
  ∀ s t : State, step s = .next t → ∀ a, a < 0x050 → memByte t.mem a = memByte s.mem a

/-! Jumps, call, return, skips -/

/-- R112: 1NNN. -/
def Obligations.JumpIsAbsolute : Prop :=
  DecodesAs 0x1000 0xF000 (fun f => .jp f.nnn) ∧
  ∀ (nnn : Addr12) (s : State), ∃ t, exec (.jp nnn) s = .next t ∧ t.pc.toNat = nnn.toNat ∧ s.changesOnly t [] [.pc]

/-- 2NNN pushes its own address, every other entry stays, and on a full stack it raises StackOverflow, with nothing pushed
and pc unchanged (41_control_flow.md sections 1 and 2). The depth of 16 and the fault are the spec's own choice D5 (log
entry 11). -/
def Obligations.CallPushesItsOwnAddress : Prop :=
  DecodesAs 0x2000 0xF000 (fun f => .call f.nnn) ∧
  ∀ (nnn : Addr12) (s : State),
    (s.sp.val < 16 → ∃ t, exec (.call nnn) s = .next t ∧ t.pc.toNat = nnn.toNat ∧ t.sp.val = s.sp.val + 1 ∧
      (∀ (j : Nat) (h : j < 16), t.stk[j]'h = if j = s.sp.val then s.pc else s.stk[j]'h) ∧
      s.changesOnly t [] [.pc, .stack]) ∧
    (s.sp.val = 16 → ∃ t, exec (.call nnn) s = .next t ∧ t = s.enterFault .stackOverflow ∧ t.sp = s.sp ∧
      t.stk = s.stk ∧ t.pc = s.pc)

/-- R114: 00EE resumes two bytes after the popped address, and on an empty stack it raises StackUnderflow, with pc and SP
unchanged. -/
def Obligations.ReturnResumesAfterTheCall : Prop :=
  DecodesAs 0x00EE 0xFFFF (fun _ => .ret) ∧
  ∀ s : State,
    (∀ (j : Nat) (h : j < 16), s.sp.val = j + 1 → ∃ t, exec .ret s = .next t ∧ t.pc = (s.stk[j]'h) + 2 ∧
      t.sp.val = j ∧ (∀ (k : Nat) (hk : k < 16), k < j → t.stk[k]'hk = s.stk[k]'hk) ∧
      s.changesOnly t [] [.pc, .stack]) ∧
    (s.sp.val = 0 → ∃ t, exec .ret s = .next t ∧ t = s.enterFault .stackUnderflow ∧ t.sp = s.sp ∧ t.pc = s.pc)

/-- A call and the return from it: execution resumes at the word after the call, with the stack as it was
(41_control_flow.md sections 1, 2 and 4, marked derived there). -/
def Obligations.CallThenReturnComesBack : Prop :=
  ∀ (nnn : Addr12) (s : State), s.sp.val < 16 →
    ∃ t u, exec (.call nnn) s = .next t ∧ exec .ret t = .next u ∧ u.pc = s.pc + 2 ∧ u.sp = s.sp ∧
      (∀ (j : Nat) (h : j < 16), j < s.sp.val → u.stk[j]'h = s.stk[j]'h) ∧ s.changesOnly u [] [.pc, .stack]

/-- R115: BNNN adds V[0] to the address without reduction. -/
def Obligations.JumpV0AddsWithoutReduction : Prop :=
  DecodesAs 0xB000 0xF000 (fun f => .jpV0 f.nnn) ∧
  ∀ (nnn : Addr12) (s : State), ∃ t, exec (.jpV0 nnn) s = .next t ∧
    t.pc.toNat = (s.getV 0).toNat + nnn.toNat ∧ s.changesOnly t [] [.pc]

/-- R116 and R117: 3XKK and 4XKK. -/
def Obligations.SkipsOnAnImmediate : Prop :=
  DecodesAs 0x3000 0xF000 (fun f => .seImm f.x f.kk) ∧ DecodesAs 0x4000 0xF000 (fun f => .sneImm f.x f.kk) ∧
  ∀ (x : Reg) (kk : Byte) (s : State),
    (∃ t, exec (.seImm x kk) s = .next t ∧ t.pc = (if s.getV x = kk then s.pc + 4 else s.pc + 2) ∧
      s.changesOnly t [] [.pc]) ∧
    (∃ t, exec (.sneImm x kk) s = .next t ∧ t.pc = (if s.getV x = kk then s.pc + 2 else s.pc + 4) ∧
      s.changesOnly t [] [.pc])

/-- 5XY0 and 9XY0 (41_control_flow.md section 3). That their low nibble must be 0, and every other word of the two families
is refused, is the spec's own choice D4, strict decode (log entry 11). -/
def Obligations.SkipsOnARegister : Prop :=
  DecodesAs 0x5000 0xF00F (fun f => .seReg f.x f.y) ∧ DecodesAs 0x9000 0xF00F (fun f => .sneReg f.x f.y) ∧
  (∀ w : Word, (w.toNat / 4096 = 5 ∨ w.toNat / 4096 = 9) → w.toNat % 16 ≠ 0 → decode w = .error (.unknownOpcode w)) ∧
  ∀ (x y : Reg) (s : State),
    (∃ t, exec (.seReg x y) s = .next t ∧ t.pc = (if s.getV x = s.getV y then s.pc + 4 else s.pc + 2) ∧
      s.changesOnly t [] [.pc]) ∧
    (∃ t, exec (.sneReg x y) s = .next t ∧ t.pc = (if s.getV x = s.getV y then s.pc + 2 else s.pc + 4) ∧
      s.changesOnly t [] [.pc])

/-! The ALU -/

/-- R131: 6XKK. -/
def Obligations.LoadImmediate : Prop :=
  DecodesAs 0x6000 0xF000 (fun f => .ldImm f.x f.kk) ∧
  ∀ (x : Reg) (kk : Byte) (s : State), ∃ t, exec (.ldImm x kk) s = .next t ∧ t.getV x = kk ∧ t.pc = s.pc + 2 ∧
    s.changesOnly t [x] [.pc]

/-- R132: 7XKK adds modulo 256 and writes no flag. -/
def Obligations.AddImmediateWrapsWithoutFlag : Prop :=
  DecodesAs 0x7000 0xF000 (fun f => .addImm f.x f.kk) ∧
  ∀ (x : Reg) (kk : Byte) (s : State), ∃ t, exec (.addImm x kk) s = .next t ∧
    (t.getV x).toNat = ((s.getV x).toNat + kk.toNat) % 256 ∧ t.pc = s.pc + 2 ∧ s.changesOnly t [x] [.pc]

/-- R133: 8XY0. -/
def Obligations.CopyRegister : Prop :=
  DecodesAs 0x8000 0xF00F (fun f => .ldReg f.x f.y) ∧
  ∀ (x y : Reg) (s : State), ∃ t, exec (.ldReg x y) s = .next t ∧ t.getV x = s.getV y ∧ t.pc = s.pc + 2 ∧
    s.changesOnly t [x] [.pc]

/-- R134, R135 and R136: the bitwise instructions, bit by bit, VF untouched. -/
def Obligations.BitwiseOperationsLeaveVF : Prop :=
  DecodesAs 0x8001 0xF00F (fun f => .orReg f.x f.y) ∧ DecodesAs 0x8002 0xF00F (fun f => .andReg f.x f.y) ∧
  DecodesAs 0x8003 0xF00F (fun f => .xorReg f.x f.y) ∧
  ∀ (x y : Reg) (s : State),
    (∃ t, exec (.orReg x y) s = .next t ∧
      (∀ b, (t.getV x).getLsbD b = ((s.getV x).getLsbD b || (s.getV y).getLsbD b)) ∧ t.pc = s.pc + 2 ∧
      s.changesOnly t [x] [.pc]) ∧
    (∃ t, exec (.andReg x y) s = .next t ∧
      (∀ b, (t.getV x).getLsbD b = ((s.getV x).getLsbD b && (s.getV y).getLsbD b)) ∧ t.pc = s.pc + 2 ∧
      s.changesOnly t [x] [.pc]) ∧
    (∃ t, exec (.xorReg x y) s = .next t ∧
      (∀ b, (t.getV x).getLsbD b = ((s.getV x).getLsbD b ^^ (s.getV y).getLsbD b)) ∧ t.pc = s.pc + 2 ∧
      s.changesOnly t [x] [.pc])

/-- R137: 8XY4 writes the sum modulo 256 and then the carry; with x = 0xF the carry stands (R137 itself says so; the spec
logs it as its decision D13). -/
def Obligations.AddSetsCarryLast : Prop :=
  DecodesAs 0x8004 0xF00F (fun f => .addReg f.x f.y) ∧
  ∀ (x y : Reg) (s : State), ∃ t, exec (.addReg x y) s = .next t ∧
    (t.getV VF).toNat = (if 255 < (s.getV x).toNat + (s.getV y).toNat then 1 else 0) ∧
    (x ≠ VF → (t.getV x).toNat = ((s.getV x).toNat + (s.getV y).toNat) % 256) ∧
    t.pc = s.pc + 2 ∧ s.changesOnly t [x, VF] [.pc]

/-- R138: 8XY5 writes the no-borrow flag and then the difference modulo 256; with x = 0xF the difference stands (R138
itself says so; the spec logs it as its decision D13). -/
def Obligations.SubtractSetsNoBorrowFirst : Prop :=
  DecodesAs 0x8005 0xF00F (fun f => .subReg f.x f.y) ∧
  ∀ (x y : Reg) (s : State), ∃ t, exec (.subReg x y) s = .next t ∧
    ((t.getV x).toNat : Int) = (((s.getV x).toNat : Int) - ((s.getV y).toNat : Int)) % 256 ∧
    (x ≠ VF → (t.getV VF).toNat = (if (0 : Int) ≤ ((s.getV x).toNat : Int) - ((s.getV y).toNat : Int) then 1 else 0)) ∧
    t.pc = s.pc + 2 ∧ s.changesOnly t [x, VF] [.pc]

/-- R140: 8XY7, the same with the operands exchanged (with x = 0xF as in R138). -/
def Obligations.ReverseSubtractSetsNoBorrowFirst : Prop :=
  DecodesAs 0x8007 0xF00F (fun f => .subnReg f.x f.y) ∧
  ∀ (x y : Reg) (s : State), ∃ t, exec (.subnReg x y) s = .next t ∧
    ((t.getV x).toNat : Int) = (((s.getV y).toNat : Int) - ((s.getV x).toNat : Int)) % 256 ∧
    (x ≠ VF → (t.getV VF).toNat = (if (0 : Int) ≤ ((s.getV y).toNat : Int) - ((s.getV x).toNat : Int) then 1 else 0)) ∧
    t.pc = s.pc + 2 ∧ s.changesOnly t [x, VF] [.pc]

/-- 8XY6 shifts V[x] right by one and puts the lost bit into VF; with x = 0xF the result stands, which is the spec's
decision D13 (42_alu.md sections 3 and 6). -/
def Obligations.ShiftRightByOne : Prop :=
  DecodesAs 0x8006 0xF00F (fun f => .shr f.x) ∧
  ∀ (x : Reg) (s : State), ∃ t, exec (.shr x) s = .next t ∧ (t.getV x).toNat = (s.getV x).toNat / 2 ∧
    (x ≠ VF → (t.getV VF).toNat = (s.getV x).toNat % 2) ∧ t.pc = s.pc + 2 ∧ s.changesOnly t [x, VF] [.pc]

/-- 8XYE shifts V[x] left by one and puts the lost bit into VF; with x = 0xF the result stands, which is the spec's
decision D13 (42_alu.md sections 3 and 6). -/
def Obligations.ShiftLeftByOne : Prop :=
  DecodesAs 0x800E 0xF00F (fun f => .shl f.x) ∧
  ∀ (x : Reg) (s : State), ∃ t, exec (.shl x) s = .next t ∧ (t.getV x).toNat = 2 * (s.getV x).toNat % 256 ∧
    (x ≠ VF → (t.getV VF).toNat = (s.getV x).toNat / 128) ∧ t.pc = s.pc + 2 ∧ s.changesOnly t [x, VF] [.pc]

/-- R142: CXKK stores `kk & rnd` for the byte on the input `rnd`, which is a free value (log entry 6), so no bit
outside `kk` is set, whatever the byte. -/
def Obligations.RandomByteIsMasked : Prop :=
  DecodesAs 0xC000 0xF000 (fun f => .rnd f.x f.kk) ∧
  ∀ (x : Reg) (kk : Byte) (s : State), ∃ t, exec (.rnd x kk) s = .next t ∧ t.getV x = kk &&& Config.rnd s.rndDraws ∧
    t.getV x &&& ~~~kk = 0 ∧ t.pc = s.pc + 2 ∧ s.changesOnly t [x] [.pc, .rndDraws]

/-- The true result of a flag-writing ALU instruction can be recovered from V[x] and VF when x is not 0xF
(42_alu.md section 5, marked derived there). -/
def Obligations.AluResultIsRecoverable : Prop :=
  ∀ (x y : Reg) (s : State), x ≠ VF →
    (∃ t, exec (.subReg x y) s = .next t ∧ ((s.getV x).toNat : Int) - ((s.getV y).toNat : Int) =
      ((t.getV x).toNat : Int) - 256 * (1 - ((t.getV VF).toNat : Int))) ∧
    (∃ t, exec (.subnReg x y) s = .next t ∧ ((s.getV y).toNat : Int) - ((s.getV x).toNat : Int) =
      ((t.getV x).toNat : Int) - 256 * (1 - ((t.getV VF).toNat : Int))) ∧
    (∃ t, exec (.addReg x y) s = .next t ∧
      (s.getV x).toNat + (s.getV y).toNat = (t.getV x).toNat + 256 * (t.getV VF).toNat) ∧
    (∃ t, exec (.shr x) s = .next t ∧ (s.getV x).toNat = 2 * (t.getV x).toNat + (t.getV VF).toNat) ∧
    (∃ t, exec (.shl x) s = .next t ∧ 2 * (s.getV x).toNat = (t.getV x).toNat + 256 * (t.getV VF).toNat)

/-! Index register and timers -/

/-- R160: ANNN. -/
def Obligations.LoadIndex : Prop :=
  DecodesAs 0xA000 0xF000 (fun f => .ldI f.nnn) ∧
  ∀ (nnn : Addr12) (s : State), ∃ t, exec (.ldI nnn) s = .next t ∧ t.i.toNat = nnn.toNat ∧ t.pc = s.pc + 2 ∧
    s.changesOnly t [] [.pc, .i]

/-- R161: FX1E adds modulo 4096 and writes no flag. -/
def Obligations.AddToIndexWrapsAt4096 : Prop :=
  DecodesAs 0xF01E 0xF0FF (fun f => .addI f.x) ∧
  ∀ (x : Reg) (s : State), ∃ t, exec (.addI x) s = .next t ∧
    t.i.toNat = (s.i.toNat + (s.getV x).toNat) % 4096 ∧ t.pc = s.pc + 2 ∧ s.changesOnly t [] [.pc, .i]

/-- FX29 points I at the glyph of V[x], 5 * V[x], and no memory is read; above 0x0F the formula is the spec's decision
D14 (43_index_timers.md section 1). -/
def Obligations.GlyphAddressIsFiveTimesTheDigit : Prop :=
  DecodesAs 0xF029 0xF0FF (fun f => .ldF f.x) ∧
  ∀ (x : Reg) (s : State), ∃ t, exec (.ldF x) s = .next t ∧ t.i.toNat = 5 * (s.getV x).toNat ∧ t.pc = s.pc + 2 ∧
    s.changesOnly t [] [.pc, .i]

/-- R163: FX07 reads DT and does not change it. -/
def Obligations.ReadDelayTimer : Prop :=
  DecodesAs 0xF007 0xF0FF (fun f => .ldVxDT f.x) ∧
  (∀ (x : Reg) (s : State), ∃ t, exec (.ldVxDT x) s = .next t ∧ t.getV x = s.dt ∧ t.pc = s.pc + 2 ∧
    s.changesOnly t [x] [.pc]) ∧
  ∀ (x : Reg) (s : State), s.NextInstr (.ldVxDT x) →
    ∃ t, step s = .next t ∧ t.getV x = s.dt ∧ t.dt.toNat = s.dt.toNat - 1

/-- R164 and R165: FX15 and FX18 set a timer, and the tick that ends the Step counts the new value down. -/
def Obligations.SetTimers : Prop :=
  DecodesAs 0xF015 0xF0FF (fun f => .ldDTVx f.x) ∧ DecodesAs 0xF018 0xF0FF (fun f => .ldSTVx f.x) ∧
  (∀ (x : Reg) (s : State),
    (∃ t, exec (.ldDTVx x) s = .next t ∧ t.dt = s.getV x ∧ t.pc = s.pc + 2 ∧ s.changesOnly t [] [.pc, .dt]) ∧
    (∃ t, exec (.ldSTVx x) s = .next t ∧ t.st = s.getV x ∧ t.pc = s.pc + 2 ∧ s.changesOnly t [] [.pc, .st])) ∧
  ∀ (x : Reg) (s : State),
    (s.NextInstr (.ldDTVx x) → ∃ t, step s = .next t ∧ t.dt.toNat = (s.getV x).toNat - 1) ∧
    (s.NextInstr (.ldSTVx x) → ∃ t, step s = .next t ∧ t.st.toNat = (s.getV x).toNat - 1 ∧
      (t.toneEnd = true ↔ (s.getV x).toNat = 1))

/-- R166: TickTimers counts each timer down by one, stops at 0, pulses exactly when ST goes from 1 to 0, and writes
nothing else; it is the last act of every Step that raises no fault, whatever the instruction. -/
def Obligations.TickCountsDownToZero : Prop :=
  (∀ s : State,
    (0 < s.dt.toNat → s.tickTimers.dt.toNat = s.dt.toNat - 1) ∧ (s.dt.toNat = 0 → s.tickTimers.dt.toNat = 0) ∧
    (0 < s.st.toNat → s.tickTimers.st.toNat = s.st.toNat - 1) ∧ (s.st.toNat = 0 → s.tickTimers.st.toNat = 0) ∧
    (s.tickTimers.toneEnd = true ↔ s.st.toNat = 1) ∧ s.changesOnly s.tickTimers [] [.dt, .st, .toneEnd]) ∧
  ∀ s t : State, s.halted = false → step s = .next t → t.halted = false →
    ∃ u, executeInstruction s = .next u ∧ t = u.tickTimers

/-- After any Step of a running core that raises no fault, `tone_end` is 1 exactly when the tick took ST from 1 to 0; for
an instruction other than FX18 that is when ST was 1 before the Step (43_index_timers.md section 3; the spec's decision
D21). -/
def Obligations.ToneEndsWhenSoundTimerRunsOut : Prop :=
  ∀ (i : Instr) (s t : State), s.NextInstr i → (∀ x, i ≠ .ldSTVx x) → step s = .next t → t.halted = false →
    (t.toneEnd = true ↔ s.st.toNat = 1) ∧ t.st.toNat = s.st.toNat - 1

/-! Graphics -/

/-- R184: 00E0. -/
def Obligations.ClearScreen : Prop :=
  DecodesAs 0x00E0 0xFFFF (fun _ => .cls) ∧
  ∀ s : State, ∃ t, exec .cls s = .next t ∧ (∀ a, a < 2048 → t.cell a = false) ∧ t.pc = s.pc + 2 ∧
    s.changesOnly t [] [.pc, .fb]

/-- 00E0 followed by a read of the whole grid returns 2048 zeros, and a read outside the grid is refused
(44_graphics.md sections 3 and 4; the refusal is the spec's decision D19). -/
def Obligations.ClearedRegionReadsZero : Prop :=
  (∀ s : State, ∃ t, exec .cls s = .next t ∧ getRegion t 0 0 2048 = .ok (List.replicate 2048 false)) ∧
  (∀ (s : State) (x y n : Nat), x + 64 * y + n ≤ 2048 →
    ∃ l, getRegion s x y n = .ok l ∧ l.length = n ∧ ∀ (j : Nat) (h : j < l.length), l[j] = s.cell (x + 64 * y + j)) ∧
  ∀ (s : State) (x y n : Nat), 2048 < x + 64 * y + n → getRegion s x y n = .error .readOutsideGrid

/-- One sprite row, whatever its start coordinates: the cell under a 1 bit flips, every other cell stays, and the call
collides exactly when a cell under a 1 bit was on (44_graphics.md sections 1 and 2). Which cell a coordinate names, the
column modulo 64 and the row modulo 32, is the spec's own choice D6 (log entry 7). -/
def Obligations.SpriteRowTogglesUnderOneBits : Prop :=
  ∀ (x0 y0 : Nat) (p : Byte) (fb : Framebuffer),
    (∀ a, a < 2048 → ((setSpriteRow x0 y0 p fb).fb.getLsbD a = !fb.getLsbD a ↔
      ∃ col, col < 8 ∧ p.getLsbD (7 - col) = true ∧ a = (x0 + col) % 64 + 64 * (y0 % 32))) ∧
    ((setSpriteRow x0 y0 p fb).hit = true ↔
      ∃ col, col < 8 ∧ p.getLsbD (7 - col) = true ∧ fb.getLsbD ((x0 + col) % 64 + 64 * (y0 % 32)) = true)

/-- DXYN whose sprite fits draws it: the cells under a 1 bit flip, every other cell stays, VF is 1 exactly when one of
them was on and else 0, and nothing else but pc changes; coordinates are of the pre-state and wrap at the edges. The wrap
and the pre-state coordinates with x or y = 0xF are the spec's decisions D6 and D13 (44_graphics.md sections 1, 2, 4, 5). -/
def Obligations.DrawTogglesCellsAndReportsCollision : Prop :=
  DecodesAs 0xD000 0xF000 (fun f => .drw f.x f.y f.n.val) ∧
  ∀ (x y : Reg) (n : Nat) (s : State), n ≤ 15 → s.SpriteFits n →
    ∃ t, exec (.drw x y n) s = .next t ∧
      (∀ a, a < 2048 → (t.cell a = !s.cell a ↔ s.SpriteOn x y n a)) ∧
      (t.getV VF = 1 ↔ ∃ a, s.SpriteOn x y n a ∧ s.cell a = true) ∧
      (t.getV VF = 0 ∨ t.getV VF = 1) ∧ t.pc = s.pc + 2 ∧ s.changesOnly t [VF] [.pc, .fb]

/-- DXYN whose sprite runs past 0xFFF raises OutOfBounds(0x1000) and draws nothing (44_graphics.md section 4; the spec's
decisions D8 and D24). -/
def Obligations.DrawOutOfBoundsDrawsNothing : Prop :=
  ∀ (x y : Reg) (n : Nat) (s : State), 1 ≤ n → 0x1000 < s.i.toNat + n →
    ∃ t, exec (.drw x y n) s = .next t ∧ t.halted = true ∧ t.faultCode.toNat = 3 ∧ t.faultInfo.toNat = 0x1000 ∧
      s.changesOnly t [] [.latch]

/-- Drawing the same sprite twice restores the framebuffer, and the second draw reports a collision exactly when some
cell under a 1 bit was off before the first (44_graphics.md section 5, marked derived there). The cells are those of the
spec's decision D6 (log entry 7). -/
def Obligations.DrawingTwiceRestores : Prop :=
  ∀ (x y x' y' : Reg) (n : Nat) (s u : State), n ≤ 15 → s.SpriteFits n → u.SpriteFits n →
    u.getV x' = s.getV x → u.getV y' = s.getV y →
    (∀ row, row < n → memByte u.mem (u.i.toNat + row) = memByte s.mem (s.i.toNat + row)) →
    ∃ t, exec (.drw x y n) s = .next t ∧
      (u.fb = t.fb → ∃ v, exec (.drw x' y' n) u = .next v ∧ v.fb = s.fb ∧
        (v.getV VF = 1 ↔ ∃ a, s.SpriteOn x y n a ∧ s.cell a = false))

/-! Keypad -/

/-- EX9E and EXA1 skip on the level of the key numbered by the low four bits of V[x]; for V[x] above 0x0F that choice is
the spec's decision D15 (45_keypad.md sections 1 and 2). -/
def Obligations.SkipsOnAKey : Prop :=
  DecodesAs 0xE09E 0xF0FF (fun f => .skp f.x) ∧ DecodesAs 0xE0A1 0xF0FF (fun f => .sknp f.x) ∧
  ∀ (x : Reg) (s : State),
    (∃ t, exec (.skp x) s = .next t ∧
      t.pc = (if s.keys.getLsbD ((s.getV x).toNat % 16) = true then s.pc + 4 else s.pc + 2) ∧
      s.changesOnly t [] [.pc]) ∧
    (∃ t, exec (.sknp x) s = .next t ∧
      t.pc = (if s.keys.getLsbD ((s.getV x).toNat % 16) = true then s.pc + 2 else s.pc + 4) ∧
      s.changesOnly t [] [.pc])

/-- R203: FX0A waits while no key is down, changing nothing, and else stores the lowest pressed key and advances. A Step
that stays blocked is an ordinary Step: the timers tick, `tone_end` may fire, nothing else changes. -/
def Obligations.WaitForTheLowestKey : Prop :=
  DecodesAs 0xF00A 0xF0FF (fun f => .ldVxK f.x) ∧
  (∀ (x : Reg) (s : State), s.keys = 0 → exec (.ldVxK x) s = .next s) ∧
  (∀ (x : Reg) (s : State) (k : Nat), s.keys.getLsbD k = true → (∀ j, j < k → s.keys.getLsbD j = false) →
    ∃ t, exec (.ldVxK x) s = .next t ∧ (t.getV x).toNat = k ∧ k ≤ 15 ∧ t.pc = s.pc + 2 ∧ s.changesOnly t [x] [.pc]) ∧
  ∀ (x : Reg) (s : State), s.NextInstr (.ldVxK x) → s.keys = 0 →
    ∃ t, step s = .next t ∧ t.dt.toNat = s.dt.toNat - 1 ∧ t.st.toNat = s.st.toNat - 1 ∧
      (t.toneEnd = true ↔ s.st.toNat = 1) ∧ s.changesOnly t [] [.dt, .st, .toneEnd]

/-! The host's moves and memory -/

/-- Load places the bytes at 0x200 and changes nothing else, or, when they do not fit, latches OutOfBounds(0x1000) and
writes nothing, or is refused on a HALTED core (20_memory.md section 3; the spec's decision D17). Memory is canonical,
as in every run. -/
def Obligations.LoadPlacesTheProgram : Prop :=
  ∀ (s : State) (bytes : List Byte), Memory.wf s.mem = true →
    (bytes.length ≤ 3584 → ∃ t, portLoad bytes s = .next t ∧
      (∀ (j : Nat) (h : j < bytes.length), memByte t.mem (0x200 + j) = bytes[j]) ∧
      (∀ a, a < 0x200 ∨ 0x200 + bytes.length ≤ a → memByte t.mem a = memByte s.mem a) ∧
      Memory.wf t.mem = true ∧ s.changesOnly t [] [.mem]) ∧
    (3584 < bytes.length → s.halted = false → ∃ t, portLoad bytes s = .next t ∧ t.halted = true ∧
      t.faultCode.toNat = 3 ∧ t.faultInfo.toNat = 0x1000 ∧ s.changesOnly t [] [.latch]) ∧
    (3584 < bytes.length → s.halted = true → portLoad bytes s = .refused .failingLoadWhileHalted)

/-- press and release change the one key and nothing else, and a key above 15 is refused (45_keypad.md section 1; the
spec's decision D25). -/
def Obligations.KeysChangeOneAtATime : Prop :=
  ∀ (s : State) (k : Nat),
    (k < 16 → ∃ t, portPress k s = .next t ∧
      (∀ j, j < 16 → t.keys.getLsbD j = (decide (j = k) || s.keys.getLsbD j)) ∧ s.changesOnly t [] [.keys]) ∧
    (k < 16 → ∃ t, portRelease k s = .next t ∧
      (∀ j, j < 16 → t.keys.getLsbD j = (!decide (j = k) && s.keys.getLsbD j)) ∧ s.changesOnly t [] [.keys]) ∧
    (16 ≤ k → portPress k s = .refused .keyArgument ∧ portRelease k s = .refused .keyArgument)

/-- A validated write of one byte: in bounds it changes that byte only and keeps memory canonical, out of bounds it
raises OutOfBounds with the address (20_memory.md section 3). -/
def Obligations.MemoryReadsWhatWasWritten : Prop :=
  ∀ (m : Memory) (a : Nat) (b : Byte), Memory.wf m = true →
    (a ≤ 0xFFF → ∃ t, memWrite8 m a b = .ok t ∧ Memory.wf t = true ∧ memRead8 t a = .ok b ∧
      ∀ c, c ≠ a → memByte t c = memByte m c) ∧
    (0xFFF < a → memWrite8 m a b = .error (.outOfBounds (BitVec.ofNat 16 a)) ∧
      memRead8 m a = .error (.outOfBounds (BitVec.ofNat 16 a)))
end

