-- ==== Sys2Proof/Laws/Graphics.lean ====
section
/-! SUPPORT. The blitter: which cells one row and one sprite toggle, and when they collide. -/

namespace Sys2Proof.Machine

/-- The cell address under the default EDGE_POLICY (44_graphics.md R182). -/
@[simp] theorem cellAddr_eq (cx cy : Nat) : cellAddr cx cy = some (cx % 64 + 64 * (cy % 32)) := rfl

/-- A cell address is always a cell of the framebuffer (R182). -/
theorem cellAddr_lt (cx cy a : Nat) (h : cellAddr cx cy = some a) : a < 2048 := by
  simp only [cellAddr_eq, Option.some.injEq] at h
  omega

/-- Toggling a cell flips it and no other. -/
theorem Blit.toggle_cell (b : Blit) (a c : Nat) (hc : c < 2048) :
    (b.toggle a).fb.getLsbD c = (b.fb.getLsbD c ^^ decide (c = a)) := by
  simp only [Blit.toggle, BitVec.getLsbD_xor, BitVec.getLsbD_twoPow]
  by_cases h : c = a
  · subst h; simp [hc]
  · have h' : a ≠ c := Ne.symm h
    simp [h, h']

@[simp] theorem Blit.toggle_hit (b : Blit) (a : Nat) : (b.toggle a).hit = (b.hit || b.fb.getLsbD a) := rfl

/-- An empty row of a sprite changes nothing and does not collide (R183). -/
theorem setSpriteRow_zero (x0 y0 : Nat) (fb : Framebuffer) : setSpriteRow x0 y0 0 fb = ⟨fb, false⟩ := by
  simp [setSpriteRow, spriteCols, Blit.pixel]

@[simp] theorem drawRows_nil (vx vy : Nat) (b : Blit) : drawRows vx vy [] b = b := rfl

/-- Drawing rows one by one (R187). -/
theorem drawRows_cons (vx vy : Nat) (p : Byte) (rest : List Byte) (b : Blit) :
    drawRows vx vy (p :: rest) b = drawRows vx (vy + 1) rest
      ⟨(setSpriteRow vx vy p b.fb).fb, b.hit || (setSpriteRow vx vy p b.fb).hit⟩ := rfl

/-- Everything the range check of DXYN can answer (R187). -/
theorem spriteCause_cases (base n : Nat) :
    ((n = 0 ∨ base + n ≤ 0x1000) ∧ spriteCause base n = none) ∨
    (1 ≤ n ∧ 0x1000 < base + n ∧ spriteCause base n = some (.outOfBounds 0x1000)) := by
  unfold spriteCause
  split
  · exact .inr ⟨by omega, by omega, rfl⟩
  · exact .inl ⟨by omega, rfl⟩

end Sys2Proof.Machine
end

