-- ==== Sys2Proof/Laws/Memory.lean ====
section
/-! SUPPORT. Memory: read after write, and every operation keeps the canonical form. -/

namespace Sys2Proof.Machine

/-- A canonical memory lists nothing below the address its entries start from. -/
theorem memByte_of_wfFrom_lt (m : Memory) (lo a : Nat) (h : Memory.wfFrom lo m = true) (ha : a < lo) :
    memByte m a = unlisted a := by
  induction m generalizing lo with
  | nil => rfl
  | cons e rest ih =>
    obtain ⟨k, b⟩ := e
    simp only [Memory.wfFrom, Bool.and_eq_true, decide_eq_true_eq] at h
    have hk : k ≠ a := by omega
    simp only [memByte, hk, if_false]
    exact ih (k + 1) h.2 (by omega)

/-- The canonical form from an address is one from every lower address. -/
theorem Memory.wfFrom_mono (m : Memory) (lo lo' : Nat) (h : Memory.wfFrom lo m = true) (hl : lo' ≤ lo) :
    Memory.wfFrom lo' m = true := by
  cases m with
  | nil => rfl
  | cons e rest =>
    obtain ⟨k, b⟩ := e
    simp only [Memory.wfFrom, Bool.and_eq_true, decide_eq_true_eq] at h ⊢
    exact ⟨⟨⟨by omega, h.1.1.2⟩, h.1.2⟩, h.2⟩

/-- Storing a byte keeps the canonical form. -/
theorem Memory.wfFrom_memPut (m : Memory) (lo a : Nat) (b : Byte) (h : Memory.wfFrom lo m = true) (hl : lo ≤ a)
    (ha : a < memSize) : Memory.wfFrom lo (memPut m a b) = true := by
  induction m generalizing lo with
  | nil =>
    simp only [memPut]
    split
    · rfl
    · simp [Memory.wfFrom, *]
  | cons e rest ih =>
    obtain ⟨k, c⟩ := e
    simp only [Memory.wfFrom, Bool.and_eq_true, decide_eq_true_eq] at h
    simp only [memPut]
    by_cases hka : k < a
    · simp only [hka, if_true, Memory.wfFrom, Bool.and_eq_true, decide_eq_true_eq]
      exact ⟨h.1, ih (k + 1) h.2 (by omega)⟩
    · by_cases hk : k = a
      · subst hk
        simp only [Nat.lt_irrefl, if_false, if_true]
        split
        · exact Memory.wfFrom_mono rest (k + 1) lo h.2 (by omega)
        · simp_all [Memory.wfFrom]
      · simp only [hka, hk, if_false]
        split
        · simp_all [Memory.wfFrom]
        · have : Memory.wfFrom (a + 1) ((k, c) :: rest) = true := by
            simp only [Memory.wfFrom, Bool.and_eq_true, decide_eq_true_eq]
            exact ⟨⟨⟨by omega, h.1.1.2⟩, h.1.2⟩, h.2⟩
          simp only [Memory.wfFrom, Bool.and_eq_true, decide_eq_true_eq] at this ⊢
          simp_all

theorem Memory.wf_memPut (m : Memory) (a : Nat) (b : Byte) (h : Memory.wf m = true) (ha : a < memSize) :
    Memory.wf (memPut m a b) = true :=
  Memory.wfFrom_memPut m 0 a b h (Nat.zero_le _) ha

/-- Storing bytes that stay inside MEM keeps the canonical form. -/
theorem Memory.wf_memPutAll (m : Memory) (a : Nat) (bytes : List Byte) (h : Memory.wf m = true)
    (ha : a + bytes.length ≤ memSize) : Memory.wf (memPutAll m a bytes) = true := by
  induction bytes generalizing m a with
  | nil => exact h
  | cons b rest ih =>
    simp only [List.length_cons] at ha
    exact ih (memPut m a b) (a + 1) (Memory.wf_memPut m a b h (by omega)) (by omega)

/-- A validated write keeps the canonical form (20_memory.md R55). -/
theorem Memory.wf_memWrite8 (m t : Memory) (a : Nat) (b : Byte) (h : Memory.wf m = true)
    (hw : memWrite8 m a b = .ok t) : Memory.wf t = true := by
  unfold memWrite8 boundCause at hw
  split at hw
  · cases hw
  · rename_i hb
    have : ¬ 0xFFF < a + 1 - 1 := by simp at hb; omega
    cases hw
    exact Memory.wf_memPut m a b h (by simp only [memSize]; omega)

/-- Reading a byte after storing one: the stored byte there, every other byte as before. -/
theorem memByte_memPut_from (m : Memory) (lo a c : Nat) (b : Byte) (h : Memory.wfFrom lo m = true) :
    memByte (memPut m a b) c = if c = a then b else memByte m c := by
  induction m generalizing lo with
  | nil =>
    simp only [memPut]
    split
    · rename_i hb
      by_cases hc : c = a
      · simp [memByte, hc, hb]
      · simp [memByte, hc]
    · by_cases hc : c = a
      · simp [memByte, hc]
      · simp [memByte, hc, Ne.symm hc]
  | cons e rest ih =>
    obtain ⟨k, d⟩ := e
    simp only [Memory.wfFrom, Bool.and_eq_true, decide_eq_true_eq] at h
    have hlow : ∀ x, x < k + 1 → memByte rest x = unlisted x := fun x hx =>
      memByte_of_wfFrom_lt rest (k + 1) x h.2 hx
    simp only [memPut]
    by_cases hka : k < a
    · simp only [hka, if_true, memByte, ih (k + 1) h.2]
      by_cases hc : c = a
      · simp [hc]
        omega
      · simp [hc]
    · by_cases hk : k = a
      · subst hk
        simp only [Nat.lt_irrefl, if_false, if_true]
        split
        · rename_i hb
          by_cases hc : c = k
          · simp [hc, hb, hlow k (by omega)]
          · simp [memByte, hc, Ne.symm hc]
        · by_cases hc : c = k
          · simp [memByte, hc]
          · simp [memByte, hc, Ne.symm hc]
      · simp only [hka, hk, if_false]
        split
        · rename_i hb
          by_cases hc : c = a
          · subst hc
            simp [memByte, hk, hlow c (by omega), hb]
          · simp [hc]
        · by_cases hc : c = a
          · simp [memByte, hc]
          · simp [memByte, hc, Ne.symm hc]

theorem memByte_memPut (m : Memory) (a c : Nat) (b : Byte) (h : Memory.wf m = true) :
    memByte (memPut m a b) c = if c = a then b else memByte m c :=
  memByte_memPut_from m 0 a c b h

/-- Reading a byte after storing several: the stored byte at its address, every other byte as before. -/
theorem memByte_memPutAll (m : Memory) (a c : Nat) (bytes : List Byte) (h : Memory.wf m = true)
    (hl : a + bytes.length ≤ memSize) :
    memByte (memPutAll m a bytes) c = if a ≤ c then (bytes[c - a]?).getD (memByte m c) else memByte m c := by
  induction bytes generalizing m a with
  | nil => simp [memPutAll]
  | cons b rest ih =>
    simp only [List.length_cons] at hl
    rw [memPutAll, ih _ _ (Memory.wf_memPut m a b h (by omega)) (by omega), memByte_memPut _ _ _ _ h]
    by_cases h1 : a = c
    · subst h1; simp
    · by_cases h2 : a ≤ c
      · have e : c - a = (c - (a + 1)) + 1 := by omega
        simp [h2, show a + 1 ≤ c by omega, e, Ne.symm h1]
      · simp [h2, show ¬ a + 1 ≤ c by omega, Ne.symm h1]

@[simp] theorem memBytes_length (m : Memory) (a n : Nat) : (memBytes m a n).length = n := by
  induction n generalizing a with
  | zero => rfl
  | succ n ih => simp [memBytes, ih]

theorem memBytes_getElem (m : Memory) (a n j : Nat) (h : j < (memBytes m a n).length) :
    (memBytes m a n)[j] = memByte m (a + j) := by
  induction n generalizing a j with
  | zero => simp at h
  | succ n ih =>
    cases j with
    | zero => rfl
    | succ j =>
      simp only [memBytes, List.getElem_cons_succ]
      rw [ih]
      congr 1
      omega

/-- A read of two bytes answers their word exactly when both lie in MEM (20_memory.md R54, R57). -/
theorem memRead16_ok (m : Memory) (a : Nat) (h : a ≤ 0xFFE) :
    memRead16 m a = .ok (wordOfBytes (memByte m a) (memByte m (a + 1))) := by
  have : ¬ 0xFFF < a + 2 - 1 := by omega
  simp only [memRead16, boundCause, this, if_false]

theorem memRead16_error (m : Memory) (a : Nat) (h : 0xFFF ≤ a) :
    memRead16 m a = .error (.outOfBounds (BitVec.ofNat 16 (max a 0x1000))) := by
  have : 0xFFF < a + 2 - 1 := by omega
  simp only [memRead16, boundCause, this, if_true]

end Sys2Proof.Machine
end

