-- ==== Sys2Proof/Laws/State.lean ====
section
/-! SUPPORT. One lemma per field per update of the state, so that no later proof unfolds a record update. -/

namespace Sys2Proof.Machine

variable (s : State)

@[simp] theorem State.setV_v (r : Reg) (b : Byte) : (s.setV r b).v = s.v.set r.val b := rfl
@[simp] theorem State.setV_i (r : Reg) (b : Byte) : (s.setV r b).i = s.i := rfl
@[simp] theorem State.setV_pc (r : Reg) (b : Byte) : (s.setV r b).pc = s.pc := rfl
@[simp] theorem State.setV_stk (r : Reg) (b : Byte) : (s.setV r b).stk = s.stk := rfl
@[simp] theorem State.setV_sp (r : Reg) (b : Byte) : (s.setV r b).sp = s.sp := rfl
@[simp] theorem State.setV_dt (r : Reg) (b : Byte) : (s.setV r b).dt = s.dt := rfl
@[simp] theorem State.setV_st (r : Reg) (b : Byte) : (s.setV r b).st = s.st := rfl
@[simp] theorem State.setV_keys (r : Reg) (b : Byte) : (s.setV r b).keys = s.keys := rfl
@[simp] theorem State.setV_fb (r : Reg) (b : Byte) : (s.setV r b).fb = s.fb := rfl
@[simp] theorem State.setV_mem (r : Reg) (b : Byte) : (s.setV r b).mem = s.mem := rfl
@[simp] theorem State.setV_halted (r : Reg) (b : Byte) : (s.setV r b).halted = s.halted := rfl
@[simp] theorem State.setV_faultCode (r : Reg) (b : Byte) : (s.setV r b).faultCode = s.faultCode := rfl
@[simp] theorem State.setV_faultInfo (r : Reg) (b : Byte) : (s.setV r b).faultInfo = s.faultInfo := rfl
@[simp] theorem State.setV_toneEnd (r : Reg) (b : Byte) : (s.setV r b).toneEnd = s.toneEnd := rfl
@[simp] theorem State.setV_rndDraws (r : Reg) (b : Byte) : (s.setV r b).rndDraws = s.rndDraws := rfl

@[simp] theorem State.advanceOne_v : s.advanceOne.v = s.v := rfl
@[simp] theorem State.advanceOne_i : s.advanceOne.i = s.i := rfl
@[simp] theorem State.advanceOne_pc : s.advanceOne.pc = s.pc + 2 := rfl
@[simp] theorem State.advanceOne_stk : s.advanceOne.stk = s.stk := rfl
@[simp] theorem State.advanceOne_sp : s.advanceOne.sp = s.sp := rfl
@[simp] theorem State.advanceOne_dt : s.advanceOne.dt = s.dt := rfl
@[simp] theorem State.advanceOne_st : s.advanceOne.st = s.st := rfl
@[simp] theorem State.advanceOne_keys : s.advanceOne.keys = s.keys := rfl
@[simp] theorem State.advanceOne_fb : s.advanceOne.fb = s.fb := rfl
@[simp] theorem State.advanceOne_mem : s.advanceOne.mem = s.mem := rfl
@[simp] theorem State.advanceOne_halted : s.advanceOne.halted = s.halted := rfl
@[simp] theorem State.advanceOne_faultCode : s.advanceOne.faultCode = s.faultCode := rfl
@[simp] theorem State.advanceOne_faultInfo : s.advanceOne.faultInfo = s.faultInfo := rfl
@[simp] theorem State.advanceOne_toneEnd : s.advanceOne.toneEnd = s.toneEnd := rfl
@[simp] theorem State.advanceOne_rndDraws : s.advanceOne.rndDraws = s.rndDraws := rfl

@[simp] theorem State.advanceTwo_v : s.advanceTwo.v = s.v := rfl
@[simp] theorem State.advanceTwo_i : s.advanceTwo.i = s.i := rfl
@[simp] theorem State.advanceTwo_pc : s.advanceTwo.pc = s.pc + 4 := rfl
@[simp] theorem State.advanceTwo_stk : s.advanceTwo.stk = s.stk := rfl
@[simp] theorem State.advanceTwo_sp : s.advanceTwo.sp = s.sp := rfl
@[simp] theorem State.advanceTwo_dt : s.advanceTwo.dt = s.dt := rfl
@[simp] theorem State.advanceTwo_st : s.advanceTwo.st = s.st := rfl
@[simp] theorem State.advanceTwo_keys : s.advanceTwo.keys = s.keys := rfl
@[simp] theorem State.advanceTwo_fb : s.advanceTwo.fb = s.fb := rfl
@[simp] theorem State.advanceTwo_mem : s.advanceTwo.mem = s.mem := rfl
@[simp] theorem State.advanceTwo_halted : s.advanceTwo.halted = s.halted := rfl
@[simp] theorem State.advanceTwo_faultCode : s.advanceTwo.faultCode = s.faultCode := rfl
@[simp] theorem State.advanceTwo_faultInfo : s.advanceTwo.faultInfo = s.faultInfo := rfl
@[simp] theorem State.advanceTwo_toneEnd : s.advanceTwo.toneEnd = s.toneEnd := rfl
@[simp] theorem State.advanceTwo_rndDraws : s.advanceTwo.rndDraws = s.rndDraws := rfl

@[simp] theorem State.jump_v (a : Word) : (s.jump a).v = s.v := rfl
@[simp] theorem State.jump_i (a : Word) : (s.jump a).i = s.i := rfl
@[simp] theorem State.jump_pc (a : Word) : (s.jump a).pc = a := rfl
@[simp] theorem State.jump_stk (a : Word) : (s.jump a).stk = s.stk := rfl
@[simp] theorem State.jump_sp (a : Word) : (s.jump a).sp = s.sp := rfl
@[simp] theorem State.jump_dt (a : Word) : (s.jump a).dt = s.dt := rfl
@[simp] theorem State.jump_st (a : Word) : (s.jump a).st = s.st := rfl
@[simp] theorem State.jump_keys (a : Word) : (s.jump a).keys = s.keys := rfl
@[simp] theorem State.jump_fb (a : Word) : (s.jump a).fb = s.fb := rfl
@[simp] theorem State.jump_mem (a : Word) : (s.jump a).mem = s.mem := rfl
@[simp] theorem State.jump_halted (a : Word) : (s.jump a).halted = s.halted := rfl
@[simp] theorem State.jump_faultCode (a : Word) : (s.jump a).faultCode = s.faultCode := rfl
@[simp] theorem State.jump_faultInfo (a : Word) : (s.jump a).faultInfo = s.faultInfo := rfl
@[simp] theorem State.jump_toneEnd (a : Word) : (s.jump a).toneEnd = s.toneEnd := rfl
@[simp] theorem State.jump_rndDraws (a : Word) : (s.jump a).rndDraws = s.rndDraws := rfl

@[simp] theorem State.skipIf_v (c : Bool) : (s.skipIf c).v = s.v := by cases c <;> rfl
@[simp] theorem State.skipIf_i (c : Bool) : (s.skipIf c).i = s.i := by cases c <;> rfl
@[simp] theorem State.skipIf_pc (c : Bool) : (s.skipIf c).pc = if c then s.pc + 4 else s.pc + 2 := by cases c <;> rfl
@[simp] theorem State.skipIf_stk (c : Bool) : (s.skipIf c).stk = s.stk := by cases c <;> rfl
@[simp] theorem State.skipIf_sp (c : Bool) : (s.skipIf c).sp = s.sp := by cases c <;> rfl
@[simp] theorem State.skipIf_dt (c : Bool) : (s.skipIf c).dt = s.dt := by cases c <;> rfl
@[simp] theorem State.skipIf_st (c : Bool) : (s.skipIf c).st = s.st := by cases c <;> rfl
@[simp] theorem State.skipIf_keys (c : Bool) : (s.skipIf c).keys = s.keys := by cases c <;> rfl
@[simp] theorem State.skipIf_fb (c : Bool) : (s.skipIf c).fb = s.fb := by cases c <;> rfl
@[simp] theorem State.skipIf_mem (c : Bool) : (s.skipIf c).mem = s.mem := by cases c <;> rfl
@[simp] theorem State.skipIf_halted (c : Bool) : (s.skipIf c).halted = s.halted := by cases c <;> rfl
@[simp] theorem State.skipIf_faultCode (c : Bool) : (s.skipIf c).faultCode = s.faultCode := by cases c <;> rfl
@[simp] theorem State.skipIf_faultInfo (c : Bool) : (s.skipIf c).faultInfo = s.faultInfo := by cases c <;> rfl
@[simp] theorem State.skipIf_toneEnd (c : Bool) : (s.skipIf c).toneEnd = s.toneEnd := by cases c <;> rfl
@[simp] theorem State.skipIf_rndDraws (c : Bool) : (s.skipIf c).rndDraws = s.rndDraws := by cases c <;> rfl

@[simp] theorem State.enterFault_v (c : Cause) : (s.enterFault c).v = s.v := rfl
@[simp] theorem State.enterFault_i (c : Cause) : (s.enterFault c).i = s.i := rfl
@[simp] theorem State.enterFault_pc (c : Cause) : (s.enterFault c).pc = s.pc := rfl
@[simp] theorem State.enterFault_stk (c : Cause) : (s.enterFault c).stk = s.stk := rfl
@[simp] theorem State.enterFault_sp (c : Cause) : (s.enterFault c).sp = s.sp := rfl
@[simp] theorem State.enterFault_dt (c : Cause) : (s.enterFault c).dt = s.dt := rfl
@[simp] theorem State.enterFault_st (c : Cause) : (s.enterFault c).st = s.st := rfl
@[simp] theorem State.enterFault_keys (c : Cause) : (s.enterFault c).keys = s.keys := rfl
@[simp] theorem State.enterFault_fb (c : Cause) : (s.enterFault c).fb = s.fb := rfl
@[simp] theorem State.enterFault_mem (c : Cause) : (s.enterFault c).mem = s.mem := rfl
@[simp] theorem State.enterFault_halted (c : Cause) : (s.enterFault c).halted = true := rfl
@[simp] theorem State.enterFault_faultCode (c : Cause) : (s.enterFault c).faultCode = c.code := rfl
@[simp] theorem State.enterFault_faultInfo (c : Cause) : (s.enterFault c).faultInfo = c.info := rfl
@[simp] theorem State.enterFault_toneEnd (c : Cause) : (s.enterFault c).toneEnd = s.toneEnd := rfl
@[simp] theorem State.enterFault_rndDraws (c : Cause) : (s.enterFault c).rndDraws = s.rndDraws := rfl

@[simp] theorem State.tickTimers_v : s.tickTimers.v = s.v := rfl
@[simp] theorem State.tickTimers_i : s.tickTimers.i = s.i := rfl
@[simp] theorem State.tickTimers_pc : s.tickTimers.pc = s.pc := rfl
@[simp] theorem State.tickTimers_stk : s.tickTimers.stk = s.stk := rfl
@[simp] theorem State.tickTimers_sp : s.tickTimers.sp = s.sp := rfl
@[simp] theorem State.tickTimers_dt : s.tickTimers.dt = countDown s.dt := rfl
@[simp] theorem State.tickTimers_st : s.tickTimers.st = countDown s.st := rfl
@[simp] theorem State.tickTimers_keys : s.tickTimers.keys = s.keys := rfl
@[simp] theorem State.tickTimers_fb : s.tickTimers.fb = s.fb := rfl
@[simp] theorem State.tickTimers_mem : s.tickTimers.mem = s.mem := rfl
@[simp] theorem State.tickTimers_halted : s.tickTimers.halted = s.halted := rfl
@[simp] theorem State.tickTimers_faultCode : s.tickTimers.faultCode = s.faultCode := rfl
@[simp] theorem State.tickTimers_faultInfo : s.tickTimers.faultInfo = s.faultInfo := rfl
@[simp] theorem State.tickTimers_toneEnd : s.tickTimers.toneEnd = decide (s.st = 1) := rfl
@[simp] theorem State.tickTimers_rndDraws : s.tickTimers.rndDraws = s.rndDraws := rfl

@[simp] theorem State.clearFb_v : s.clearFb.v = s.v := rfl
@[simp] theorem State.clearFb_i : s.clearFb.i = s.i := rfl
@[simp] theorem State.clearFb_pc : s.clearFb.pc = s.pc := rfl
@[simp] theorem State.clearFb_stk : s.clearFb.stk = s.stk := rfl
@[simp] theorem State.clearFb_sp : s.clearFb.sp = s.sp := rfl
@[simp] theorem State.clearFb_dt : s.clearFb.dt = s.dt := rfl
@[simp] theorem State.clearFb_st : s.clearFb.st = s.st := rfl
@[simp] theorem State.clearFb_keys : s.clearFb.keys = s.keys := rfl
@[simp] theorem State.clearFb_fb : s.clearFb.fb = 0 := rfl
@[simp] theorem State.clearFb_mem : s.clearFb.mem = s.mem := rfl
@[simp] theorem State.clearFb_halted : s.clearFb.halted = s.halted := rfl
@[simp] theorem State.clearFb_faultCode : s.clearFb.faultCode = s.faultCode := rfl
@[simp] theorem State.clearFb_faultInfo : s.clearFb.faultInfo = s.faultInfo := rfl
@[simp] theorem State.clearFb_toneEnd : s.clearFb.toneEnd = s.toneEnd := rfl
@[simp] theorem State.clearFb_rndDraws : s.clearFb.rndDraws = s.rndDraws := rfl

@[simp] theorem State.drawRnd_v : s.drawRnd.v = s.v := rfl
@[simp] theorem State.drawRnd_i : s.drawRnd.i = s.i := rfl
@[simp] theorem State.drawRnd_pc : s.drawRnd.pc = s.pc := rfl
@[simp] theorem State.drawRnd_stk : s.drawRnd.stk = s.stk := rfl
@[simp] theorem State.drawRnd_sp : s.drawRnd.sp = s.sp := rfl
@[simp] theorem State.drawRnd_dt : s.drawRnd.dt = s.dt := rfl
@[simp] theorem State.drawRnd_st : s.drawRnd.st = s.st := rfl
@[simp] theorem State.drawRnd_keys : s.drawRnd.keys = s.keys := rfl
@[simp] theorem State.drawRnd_fb : s.drawRnd.fb = s.fb := rfl
@[simp] theorem State.drawRnd_mem : s.drawRnd.mem = s.mem := rfl
@[simp] theorem State.drawRnd_halted : s.drawRnd.halted = s.halted := rfl
@[simp] theorem State.drawRnd_faultCode : s.drawRnd.faultCode = s.faultCode := rfl
@[simp] theorem State.drawRnd_faultInfo : s.drawRnd.faultInfo = s.faultInfo := rfl
@[simp] theorem State.drawRnd_toneEnd : s.drawRnd.toneEnd = s.toneEnd := rfl
@[simp] theorem State.drawRnd_rndDraws : s.drawRnd.rndDraws = s.rndDraws + 1 := rfl

@[simp] theorem State.resultThenFlag_v (x : Reg) (r : Byte) (f : Bool) : (s.resultThenFlag x r f).v = (s.v.set x.val r).set VF.val (flagByte f) := rfl
@[simp] theorem State.resultThenFlag_i (x : Reg) (r : Byte) (f : Bool) : (s.resultThenFlag x r f).i = s.i := rfl
@[simp] theorem State.resultThenFlag_pc (x : Reg) (r : Byte) (f : Bool) : (s.resultThenFlag x r f).pc = s.pc := rfl
@[simp] theorem State.resultThenFlag_stk (x : Reg) (r : Byte) (f : Bool) : (s.resultThenFlag x r f).stk = s.stk := rfl
@[simp] theorem State.resultThenFlag_sp (x : Reg) (r : Byte) (f : Bool) : (s.resultThenFlag x r f).sp = s.sp := rfl
@[simp] theorem State.resultThenFlag_dt (x : Reg) (r : Byte) (f : Bool) : (s.resultThenFlag x r f).dt = s.dt := rfl
@[simp] theorem State.resultThenFlag_st (x : Reg) (r : Byte) (f : Bool) : (s.resultThenFlag x r f).st = s.st := rfl
@[simp] theorem State.resultThenFlag_keys (x : Reg) (r : Byte) (f : Bool) : (s.resultThenFlag x r f).keys = s.keys := rfl
@[simp] theorem State.resultThenFlag_fb (x : Reg) (r : Byte) (f : Bool) : (s.resultThenFlag x r f).fb = s.fb := rfl
@[simp] theorem State.resultThenFlag_mem (x : Reg) (r : Byte) (f : Bool) : (s.resultThenFlag x r f).mem = s.mem := rfl
@[simp] theorem State.resultThenFlag_halted (x : Reg) (r : Byte) (f : Bool) : (s.resultThenFlag x r f).halted = s.halted := rfl
@[simp] theorem State.resultThenFlag_faultCode (x : Reg) (r : Byte) (f : Bool) : (s.resultThenFlag x r f).faultCode = s.faultCode := rfl
@[simp] theorem State.resultThenFlag_faultInfo (x : Reg) (r : Byte) (f : Bool) : (s.resultThenFlag x r f).faultInfo = s.faultInfo := rfl
@[simp] theorem State.resultThenFlag_toneEnd (x : Reg) (r : Byte) (f : Bool) : (s.resultThenFlag x r f).toneEnd = s.toneEnd := rfl
@[simp] theorem State.resultThenFlag_rndDraws (x : Reg) (r : Byte) (f : Bool) : (s.resultThenFlag x r f).rndDraws = s.rndDraws := rfl

@[simp] theorem State.flagThenResult_v (x : Reg) (r : Byte) (f : Bool) : (s.flagThenResult x r f).v = (s.v.set VF.val (flagByte f)).set x.val r := rfl
@[simp] theorem State.flagThenResult_i (x : Reg) (r : Byte) (f : Bool) : (s.flagThenResult x r f).i = s.i := rfl
@[simp] theorem State.flagThenResult_pc (x : Reg) (r : Byte) (f : Bool) : (s.flagThenResult x r f).pc = s.pc := rfl
@[simp] theorem State.flagThenResult_stk (x : Reg) (r : Byte) (f : Bool) : (s.flagThenResult x r f).stk = s.stk := rfl
@[simp] theorem State.flagThenResult_sp (x : Reg) (r : Byte) (f : Bool) : (s.flagThenResult x r f).sp = s.sp := rfl
@[simp] theorem State.flagThenResult_dt (x : Reg) (r : Byte) (f : Bool) : (s.flagThenResult x r f).dt = s.dt := rfl
@[simp] theorem State.flagThenResult_st (x : Reg) (r : Byte) (f : Bool) : (s.flagThenResult x r f).st = s.st := rfl
@[simp] theorem State.flagThenResult_keys (x : Reg) (r : Byte) (f : Bool) : (s.flagThenResult x r f).keys = s.keys := rfl
@[simp] theorem State.flagThenResult_fb (x : Reg) (r : Byte) (f : Bool) : (s.flagThenResult x r f).fb = s.fb := rfl
@[simp] theorem State.flagThenResult_mem (x : Reg) (r : Byte) (f : Bool) : (s.flagThenResult x r f).mem = s.mem := rfl
@[simp] theorem State.flagThenResult_halted (x : Reg) (r : Byte) (f : Bool) : (s.flagThenResult x r f).halted = s.halted := rfl
@[simp] theorem State.flagThenResult_faultCode (x : Reg) (r : Byte) (f : Bool) : (s.flagThenResult x r f).faultCode = s.faultCode := rfl
@[simp] theorem State.flagThenResult_faultInfo (x : Reg) (r : Byte) (f : Bool) : (s.flagThenResult x r f).faultInfo = s.faultInfo := rfl
@[simp] theorem State.flagThenResult_toneEnd (x : Reg) (r : Byte) (f : Bool) : (s.flagThenResult x r f).toneEnd = s.toneEnd := rfl
@[simp] theorem State.flagThenResult_rndDraws (x : Reg) (r : Byte) (f : Bool) : (s.flagThenResult x r f).rndDraws = s.rndDraws := rfl

/-- Reading a register after a write. -/
theorem State.getV_setV (r q : Reg) (b : Byte) : (s.setV r b).getV q = if q = r then b else s.getV q := by
  by_cases h : q = r
  · subst h; simp [State.getV, State.setV]
  · have h' : r.val ≠ q.val := fun e => h (Fin.ext e.symm)
    simp [State.getV, State.setV, h, Vector.getElem_set_ne, h']

@[simp] theorem State.getV_setV_same (r : Reg) (b : Byte) : (s.setV r b).getV r = b := by
  simp [State.getV_setV]

theorem State.getV_setV_ne (r q : Reg) (b : Byte) (h : q ≠ r) : (s.setV r b).getV q = s.getV q := by
  simp [State.getV_setV, h]

/-- A register is unchanged by an update that leaves the register file alone. -/
theorem State.getV_congr (s t : State) (h : t.v = s.v) (r : Reg) : t.getV r = s.getV r := by
  simp [State.getV, h]

@[simp] theorem State.getV_advanceOne (q : Reg) : s.advanceOne.getV q = s.getV q :=
  State.getV_congr _ _ (by simp) q
@[simp] theorem State.getV_advanceTwo (q : Reg) : s.advanceTwo.getV q = s.getV q :=
  State.getV_congr _ _ (by simp) q
@[simp] theorem State.getV_jump (a : Word) (q : Reg) : (s.jump a).getV q = s.getV q :=
  State.getV_congr _ _ (by simp) q
@[simp] theorem State.getV_skipIf (c : Bool) (q : Reg) : (s.skipIf c).getV q = s.getV q :=
  State.getV_congr _ _ (by simp) q
@[simp] theorem State.getV_enterFault (c : Cause) (q : Reg) : (s.enterFault c).getV q = s.getV q :=
  State.getV_congr _ _ (by simp) q
@[simp] theorem State.getV_tickTimers (q : Reg) : s.tickTimers.getV q = s.getV q :=
  State.getV_congr _ _ (by simp) q
@[simp] theorem State.getV_clearFb (q : Reg) : s.clearFb.getV q = s.getV q :=
  State.getV_congr _ _ (by simp) q
@[simp] theorem State.getV_drawRnd (q : Reg) : s.drawRnd.getV q = s.getV q :=
  State.getV_congr _ _ (by simp) q

/-- Result first, flag second: the flag stands in VF (42_alu.md R147). -/
theorem State.getV_resultThenFlag (x q : Reg) (r : Byte) (f : Bool) :
    (s.resultThenFlag x r f).getV q = if q = VF then flagByte f else if q = x then r else s.getV q := by
  simp [State.resultThenFlag, State.getV_setV]

/-- Flag first, result second: the result stands in V[x] (42_alu.md R147). -/
theorem State.getV_flagThenResult (x q : Reg) (r : Byte) (f : Bool) :
    (s.flagThenResult x r f).getV q = if q = x then r else if q = VF then flagByte f else s.getV q := by
  simp [State.flagThenResult, State.getV_setV]

/-! The reset state, at the default RESET_FILL (00_scope.md R8), and the Reset move. -/

@[simp] theorem fillWord_resetFill : fillWord Config.resetFill = 0 := rfl
@[simp] theorem fillCells_resetFill : fillCells Config.resetFill = 0 := rfl

/-- A 16-bit fill is at most 255, so I keeps its 12 significant bits whatever RESET_FILL is (10_state.md R23). -/
theorem fillWord_toNat (fill : Byte) : (fillWord fill).toNat = fill.toNat := by
  have := fill.isLt
  simp only [fillWord, BitVec.toNat_setWidth]
  omega

/-- Every cell of the grid is filled alike. -/
theorem fillCells_getLsbD (fill : Byte) (a : Nat) (h : a < 2048) : (fillCells fill).getLsbD a = fill.getLsbD 0 := by
  unfold fillCells
  cases hf : fill.getLsbD 0
  · simp only [Bool.false_eq_true, if_false]
    exact BitVec.getLsbD_zero
  · simp only [if_true, BitVec.getLsbD_allOnes, h, decide_true]

@[simp] theorem State.reset_i : State.reset.i = 0 := rfl
@[simp] theorem State.reset_pc : State.reset.pc = 0x0200 := rfl
@[simp] theorem State.reset_sp : State.reset.sp = 0 := rfl
@[simp] theorem State.reset_dt : State.reset.dt = 0 := rfl
@[simp] theorem State.reset_st : State.reset.st = 0 := rfl
@[simp] theorem State.reset_keys : State.reset.keys = 0 := rfl
@[simp] theorem State.reset_fb : State.reset.fb = 0 := rfl
@[simp] theorem State.reset_mem : State.reset.mem = [] := rfl
@[simp] theorem State.reset_halted : State.reset.halted = false := rfl
@[simp] theorem State.reset_faultCode : State.reset.faultCode = 0 := rfl
@[simp] theorem State.reset_faultInfo : State.reset.faultInfo = 0 := rfl
@[simp] theorem State.reset_toneEnd : State.reset.toneEnd = false := rfl
@[simp] theorem State.reset_rndDraws : State.reset.rndDraws = 0 := rfl
@[simp] theorem State.reset_getV (r : Reg) : State.reset.getV r = 0 := by
  simp [State.getV, State.reset, Config.resetFill]
@[simp] theorem State.reset_stk (j : Nat) (h : j < Config.stackDepth) : State.reset.stk[j]'h = 0 := by
  simp [State.reset]

@[simp] theorem portReset_v : (portReset s).v = State.reset.v := rfl
@[simp] theorem portReset_i : (portReset s).i = State.reset.i := rfl
@[simp] theorem portReset_pc : (portReset s).pc = State.reset.pc := rfl
@[simp] theorem portReset_stk : (portReset s).stk = State.reset.stk := rfl
@[simp] theorem portReset_sp : (portReset s).sp = State.reset.sp := rfl
@[simp] theorem portReset_dt : (portReset s).dt = State.reset.dt := rfl
@[simp] theorem portReset_st : (portReset s).st = State.reset.st := rfl
@[simp] theorem portReset_fb : (portReset s).fb = State.reset.fb := rfl
@[simp] theorem portReset_mem : (portReset s).mem = State.reset.mem := rfl
@[simp] theorem portReset_halted : (portReset s).halted = State.reset.halted := rfl
@[simp] theorem portReset_faultCode : (portReset s).faultCode = State.reset.faultCode := rfl
@[simp] theorem portReset_faultInfo : (portReset s).faultInfo = State.reset.faultInfo := rfl
@[simp] theorem portReset_toneEnd : (portReset s).toneEnd = State.reset.toneEnd := rfl
@[simp] theorem portReset_getV (r : Reg) : (portReset s).getV r = 0 := State.reset_getV r
@[simp] theorem portReset_keys : (portReset s).keys = s.keys := rfl
@[simp] theorem portReset_rndDraws : (portReset s).rndDraws = s.rndDraws := rfl

end Sys2Proof.Machine
end

