-- ==== Sys2Proof/Laws/Ops.lean ====
section
/-! SUPPORT. One lemma per shared operation: everything it can do, said once. -/

namespace Sys2Proof.Machine

/-- Everything a push can do (41_control_flow.md R110). -/
theorem State.push_cases (s : State) (a : Word) :
    (∃ h : s.sp.val < Config.stackDepth, s.push a =
      .ok { s with stk := s.stk.set s.sp.val a h, sp := ⟨s.sp.val + 1, Nat.succ_lt_succ h⟩ }) ∨
    (s.sp.val = Config.stackDepth ∧ s.push a = .error .stackOverflow) := by
  by_cases h : s.sp.val < Config.stackDepth
  · exact .inl ⟨h, by simp [State.push, h]⟩
  · have := s.sp.isLt
    exact .inr ⟨by omega, by simp [State.push, h]⟩

/-- Everything a pop can do (41_control_flow.md R111). -/
theorem State.pop_cases (s : State) :
    (∃ (_ : 0 < s.sp.val) (hd : s.sp.val - 1 < Config.stackDepth), s.pop =
      .ok (s.stk[s.sp.val - 1]'hd, { s with sp := ⟨s.sp.val - 1, by omega⟩ })) ∨
    (s.sp.val = 0 ∧ s.pop = .error .stackUnderflow) := by
  by_cases h : 0 < s.sp.val
  · have hd : s.sp.val - 1 < Config.stackDepth := by have := s.sp.isLt; omega
    exact .inl ⟨h, hd, by simp [State.pop, h]⟩
  · exact .inr ⟨by omega, by simp [State.pop, h]⟩

/-- Everything `attempt` can answer: always a next state, the rule's own or fault entry from the pre-state. -/
theorem attempt_cases (s t : State) (r : Except Cause State) (h : attempt s r = .next t) :
    r = .ok t ∨ ∃ c, r = .error c ∧ t = s.enterFault c := by
  cases r with
  | ok u => simp only [attempt, Host.Outcome.next.injEq] at h; exact .inl (by rw [h])
  | error c => simp only [attempt, Host.Outcome.next.injEq] at h; exact .inr ⟨c, rfl, h.symm⟩

@[simp] theorem attempt_ok (s t : State) : attempt s (.ok t) = .next t := rfl
@[simp] theorem attempt_error (s : State) (c : Cause) : attempt s (.error c) = .next (s.enterFault c) := rfl

/-- Everything a fetch can answer (40_decode_dispatch.md R91). -/
theorem State.fetch_cases (s : State) :
    (s.pc.toNat ≤ 0xFFE ∧
      s.fetch = .ok (wordOfBytes (memByte s.mem s.pc.toNat) (memByte s.mem (s.pc.toNat + 1)))) ∨
    (0xFFF ≤ s.pc.toNat ∧ s.fetch = .error (.outOfBounds (BitVec.ofNat 16 (max s.pc.toNat 0x1000)))) := by
  by_cases h : s.pc.toNat ≤ 0xFFE
  · exact .inl ⟨h, memRead16_ok _ _ h⟩
  · exact .inr ⟨by omega, memRead16_error _ _ (by omega)⟩

/-- The end of a Step of a running core is the tick (R96). -/
@[simp] theorem State.endStep_running (s : State) (h : s.halted = false) : s.endStep = s.tickTimers := by
  simp [State.endStep, h, Config.timerCoupling]

/-- The end of a Step of a HALTED core only clears the output pulse (R97, R98). -/
@[simp] theorem State.endStep_halted (s : State) (h : s.halted = true) : s.endStep = { s with toneEnd := false } := by
  simp [State.endStep, h]

@[simp] theorem State.unknownOpcode_fault (s : State) (w : Word) :
    s.unknownOpcode w = s.enterFault (.unknownOpcode w) := rfl

@[simp] theorem finish_next (s : State) : finish (.next s) = .next s.endStep := rfl

/-- A Step answers a next state exactly when its ExecuteInstruction does. -/
theorem finish_cases (r : Result) (t : State) (h : finish r = .next t) : ∃ u, r = .next u ∧ t = u.endStep := by
  cases r with
  | next u => simp only [finish, Host.Outcome.next.injEq] at h; exact ⟨u, rfl, h.symm⟩
  | fault f => simp [finish] at h
  | refused f => simp [finish] at h

/-- A timer that counts down is `max (t - 1) 0` (43_index_timers.md R168). -/
theorem countDown_toNat (t : Byte) : (countDown t).toNat = t.toNat - 1 := by
  unfold countDown
  split
  · subst_vars; rfl
  · rename_i h
    have : t.toNat ≠ 0 := fun e => h (BitVec.eq_of_toNat_eq e)
    have := t.isLt
    rw [BitVec.toNat_sub]
    have : (1 : Byte).toNat = 1 := rfl
    omega

/-- The glyph address under the default GLYPH_OOR (43_index_timers.md R162). -/
@[simp] theorem glyphAddress_eq (v : Byte) : glyphAddress v = some (BitVec.ofNat 16 (5 * v.toNat)) := rfl

/-- The key index under the default KEY_OOR (45_keypad.md R204). -/
@[simp] theorem keyIndex_eq (v : Byte) : keyIndex v = some (lowNibble v) := rfl

@[simp] theorem zext16_toNat (nnn : Addr12) : (zext16 nnn).toNat = nnn.toNat := by
  have := nnn.isLt
  simp only [zext16, BitVec.toNat_setWidth]
  omega

/-- The first key of `pressedKeys` is the lowest one that is down (45_keypad.md R203). -/
theorem State.pressedKeys_cons (s : State) (k : Reg) (ks : List Reg) (h : s.pressedKeys = k :: ks) :
    s.keyDown k = true ∧ ∀ j, j < k → s.keyDown j = false := by
  have hsorted : (k :: ks).Pairwise (· < ·) := by
    rw [← h]
    exact List.Pairwise.filter _ (by decide)
  have hmem : ∀ j, j ∈ k :: ks ↔ s.keyDown j = true := by
    intro j
    rw [← h]
    simp only [State.pressedKeys, List.mem_filter, and_iff_right_iff_imp]
    intro _
    have hall : ∀ j : Reg, j ∈ allKeys := by decide
    exact hall j
  refine ⟨(hmem k).1 (by simp), fun j hj => ?_⟩
  by_contra hd
  have hj' := (hmem j).2 (by simpa using hd)
  rw [List.mem_cons] at hj'
  rcases hj' with rfl | hin
  · exact absurd hj (lt_irrefl _)
  · exact absurd (lt_trans hj ((List.pairwise_cons.1 hsorted).1 j hin)) (lt_irrefl _)

/-- No key is pressed exactly when K is 0 (45_keypad.md R203). -/
theorem State.pressedKeys_nil (s : State) : s.pressedKeys = [] ↔ s.keys = 0 := by
  have hall : ∀ j : Reg, j ∈ allKeys := by decide
  simp only [State.pressedKeys, List.filter_eq_nil_iff]
  constructor
  · intro h
    apply BitVec.eq_of_getLsbD_eq
    intro j hj
    have := h ⟨j, hj⟩ (hall _)
    simpa [State.keyDown] using this
  · intro h j _
    simp [State.keyDown, h]

end Sys2Proof.Machine
end

