-- ==== Sys2Proof/Laws/Decode.lean ====
section
/-! SUPPORT. Words as numbers: what the encoders write and what the field extraction reads (30_encoding.md R71, R72). -/

namespace Sys2Proof

/-- Concatenation of bit vectors as a sum. -/
theorem append_toNat {m n : Nat} (a : BitVec m) (b : BitVec n) : (a ++ b).toNat = a.toNat * 2 ^ n + b.toNat := by
  rw [BitVec.toNat_append, ← Nat.shiftLeft_add_eq_or_of_lt b.isLt, Nat.shiftLeft_eq]

theorem nib_toNat (v : Nat) : (nib v).toNat = v % 16 := by simp [nib]

theorem encNNN_toNat (op : Nat) (nnn : Addr12) : (encNNN op nnn).toNat = op % 16 * 4096 + nnn.toNat := by
  have := append_toNat (nib op) nnn
  rw [nib_toNat] at this
  exact this

theorem encXKK_toNat (op : Nat) (x : Reg) (kk : Byte) :
    (encXKK op x kk).toNat = op % 16 * 4096 + x.val * 256 + kk.toNat := by
  have h1 := append_toNat (nib op) (nib x.val)
  have h2 : (encXKK op x kk).toNat = (nib op ++ nib x.val).toNat * 2 ^ 8 + kk.toNat := append_toNat _ _
  have hx := x.isLt
  rw [h2, h1, nib_toNat, nib_toNat]
  omega

theorem encXYN_toNat (op : Nat) (x y : Reg) (n : Nat) :
    (encXYN op x y n).toNat = op % 16 * 4096 + x.val * 256 + y.val * 16 + n % 16 := by
  have h1 := append_toNat (nib op) (nib x.val)
  have h2 := append_toNat (nib op ++ nib x.val) (nib y.val)
  have h3 : (encXYN op x y n).toNat = (nib op ++ nib x.val ++ nib y.val).toNat * 2 ^ 4 + (nib n).toNat :=
    append_toNat _ _
  have hx := x.isLt
  have hy := y.isLt
  rw [h3, h2, h1, nib_toNat, nib_toNat, nib_toNat, nib_toNat]
  omega

theorem nibbleAt_val (w : Word) (lo : Nat) : (nibbleAt w lo).val = w.toNat / 2 ^ lo % 16 := by
  simp [nibbleAt, BitVec.extractLsb'_toNat, Nat.shiftRight_eq_div_pow]

theorem fields_op (w : Word) : (fields w).op.val = w.toNat / 4096 % 16 := nibbleAt_val w 12
theorem fields_x (w : Word) : (fields w).x.val = w.toNat / 256 % 16 := nibbleAt_val w 8
theorem fields_y (w : Word) : (fields w).y.val = w.toNat / 16 % 16 := nibbleAt_val w 4
theorem fields_n (w : Word) : (fields w).n.val = w.toNat % 16 := by
  have := nibbleAt_val w 0
  simpa [fields] using this
theorem fields_kk (w : Word) : (fields w).kk.toNat = w.toNat % 256 := by
  simp [fields, BitVec.extractLsb'_toNat]
theorem fields_nnn (w : Word) : (fields w).nnn.toNat = w.toNat % 4096 := by
  simp [fields, BitVec.extractLsb'_toNat]

/-! What each format's fields are. -/

theorem fields_encNNN (op : Nat) (nnn : Addr12) :
    (fields (encNNN op nnn)).op.val = op % 16 ∧ (fields (encNNN op nnn)).nnn = nnn := by
  have h := nnn.isLt
  refine ⟨?_, BitVec.eq_of_toNat_eq ?_⟩
  · rw [fields_op, encNNN_toNat]; omega
  · rw [fields_nnn, encNNN_toNat]; omega

theorem fields_encXKK (op : Nat) (x : Reg) (kk : Byte) :
    (fields (encXKK op x kk)).op.val = op % 16 ∧ (fields (encXKK op x kk)).x = x ∧ (fields (encXKK op x kk)).kk = kk := by
  have h := kk.isLt
  have hx := x.isLt
  refine ⟨?_, Fin.ext ?_, BitVec.eq_of_toNat_eq ?_⟩
  · rw [fields_op, encXKK_toNat]; omega
  · rw [fields_x, encXKK_toNat]; omega
  · rw [fields_kk, encXKK_toNat]; omega

theorem fields_encXYN (op : Nat) (x y : Reg) (n : Nat) :
    (fields (encXYN op x y n)).op.val = op % 16 ∧ (fields (encXYN op x y n)).x = x ∧
    (fields (encXYN op x y n)).y = y ∧ (fields (encXYN op x y n)).n.val = n % 16 := by
  have hx := x.isLt
  have hy := y.isLt
  refine ⟨?_, Fin.ext ?_, Fin.ext ?_, ?_⟩
  · rw [fields_op, encXYN_toNat]; omega
  · rw [fields_x, encXYN_toNat]; omega
  · rw [fields_y, encXYN_toNat]; omega
  · rw [fields_n, encXYN_toNat]; omega

/-- The big-endian word of two bytes (20_memory.md R57). -/
theorem wordOfBytes_toNat (hi lo : Byte) : (wordOfBytes hi lo).toNat = 256 * hi.toNat + lo.toNat := by
  have h := append_toNat hi lo
  have e : (wordOfBytes hi lo).toNat = hi.toNat * 2 ^ 8 + lo.toNat := h
  omega

/-- A word is the word of its two bytes. -/
theorem wordOfBytes_hi_lo (w : Word) : wordOfBytes (hiByte w) (loByte w) = w := by
  have h := w.isLt
  apply BitVec.eq_of_toNat_eq
  rw [wordOfBytes_toNat]
  simp only [hiByte, loByte, BitVec.extractLsb'_toNat, Nat.shiftRight_eq_div_pow]
  omega

/-- The decoder is the dispatch over the fields. -/
theorem decode_of_dispatch (w : Word) (i : Instr) (h : dispatch true (fields w) = some i) : decode w = .ok i := by
  simp [decode, decodeWith, Config.strictDecode, h]

/-- The decoder refuses exactly the words that dispatch to nothing, and names the word. -/
theorem decode_error (w : Word) (e : DecodeError) (h : decode w = .error e) :
    e = .unknownOpcode w ∧ dispatch true (fields w) = none := by
  simp only [decode, decodeWith, Config.strictDecode] at h
  split at h
  · cases h
  · rename_i hd
    cases h
    exact ⟨rfl, hd⟩

/-- Decoding the bytes of a word is decoding the word. -/
theorem decodeTableWord_eq (nbits w : Nat) (i : Instr) (h : decode (tableWord nbits w) = .ok i) :
    decodeTableWord nbits w = some i := by
  simp [decodeTableWord, bytesOfWord, decodeBytes, wordOfBytes_hi_lo, h]

end Sys2Proof
end

