-- ==== Sys2Proof/Laws/PerInstr.lean ====
section
/-! SUPPORT. Statements about every instruction as syntax, one lemma per constructor. -/

namespace Sys2Proof.Laws

/-- A well-formed instruction's word selects the row of the opcode map that bears its mnemonic (30_encoding.md R75). -/
def EncodeSelectsRow.Statement (i : Instr) : Prop :=
  i.WellFormed → ∃ r, r ∈ opcodeMap ∧ r.mnemonic = i.mnemonic ∧ r.selects (encode i) = true

/-- Masking a word, as a statement about numbers. -/
theorem selects_of_toNat (r : OpcodeRow) (w : Word) (h : w.toNat &&& r.mask.toNat = r.matchBits.toNat) :
    r.selects w = true := by
  simp only [OpcodeRow.selects, beq_iff_eq]
  exact BitVec.eq_of_toNat_eq (by simpa using h)

/-- The mask of a row with no sub-key keeps the top nibble. -/
theorem and_F000 (v : Nat) (h : v < 65536) : v &&& 0xF000 = v / 4096 * 4096 := by
  have h1 : v &&& 0xF000 = (v >>> 12 &&& 0xF) <<< 12 := by
    apply Nat.eq_of_testBit_eq
    intro j
    by_cases hj : j < 12
    · have : Nat.testBit 0xF000 j = false := by interval_cases j <;> rfl
      simp [this, hj]
    · have e : Nat.testBit 0xF000 j = Nat.testBit 0xF (j - 12) := by
        have : (0xF000 : Nat) = 0xF <<< 12 := rfl
        rw [this, Nat.testBit_shiftLeft]
        simp; omega
      simp only [Nat.testBit_and, Nat.testBit_shiftLeft, Nat.testBit_shiftRight, e]
      have : 12 + (j - 12) = j := by omega
      simp [this]; omega
  rw [h1, Nat.shiftLeft_eq, Nat.shiftRight_eq_div_pow]
  have : (0xF : Nat) = 2 ^ 4 - 1 := rfl
  rw [this, Nat.and_two_pow_sub_one_eq_mod]
  omega

/-- The mask of a row with the sub-key `n` keeps the top and the bottom nibble. -/
theorem and_F00F (v : Nat) (h : v < 65536) : v &&& 0xF00F = v / 4096 * 4096 + v % 16 := by
  have h1 : (0xF00F : Nat) = 0xF000 ||| 0xF := rfl
  have h2 : (0xF : Nat) = 2 ^ 4 - 1 := rfl
  rw [h1, Nat.and_or_distrib_left, and_F000 v h, h2, Nat.and_two_pow_sub_one_eq_mod]
  have h3 : v / 4096 * 4096 = (v / 4096) <<< 12 := by rw [Nat.shiftLeft_eq]
  rw [h3, ← Nat.shiftLeft_add_eq_or_of_lt (by omega)]

/-- The mask of a row with the sub-key `kk` keeps the top nibble and the bottom byte. -/
theorem and_F0FF (v : Nat) (h : v < 65536) : v &&& 0xF0FF = v / 4096 * 4096 + v % 256 := by
  have h1 : (0xF0FF : Nat) = 0xF000 ||| 0xFF := rfl
  have h2 : (0xFF : Nat) = 2 ^ 8 - 1 := rfl
  rw [h1, Nat.and_or_distrib_left, and_F000 v h, h2, Nat.and_two_pow_sub_one_eq_mod]
  have h3 : v / 4096 * 4096 = (v / 4096) <<< 12 := by rw [Nat.shiftLeft_eq]
  rw [h3, ← Nat.shiftLeft_add_eq_or_of_lt (by omega)]

theorem selects_NNN (s : String) (m : Word) (op : Nat) (nnn : Addr12) (hm : m.toNat = op % 16 * 4096) :
    OpcodeRow.selects ⟨s, m, 0xF000⟩ (encNNN op nnn) = true := by
  apply selects_of_toNat
  have h := nnn.isLt
  have hw := (encNNN op nnn).isLt
  show (encNNN op nnn).toNat &&& 0xF000 = m.toNat
  rw [and_F000 _ hw, encNNN_toNat, hm]
  omega

theorem selects_XKK (s : String) (m : Word) (op : Nat) (x : Reg) (kk : Byte) (hm : m.toNat = op % 16 * 4096) :
    OpcodeRow.selects ⟨s, m, 0xF000⟩ (encXKK op x kk) = true := by
  apply selects_of_toNat
  have h := kk.isLt
  have hx := x.isLt
  have hw := (encXKK op x kk).isLt
  show (encXKK op x kk).toNat &&& 0xF000 = m.toNat
  rw [and_F000 _ hw, encXKK_toNat, hm]
  omega

theorem selects_X (s : String) (m : Word) (op : Nat) (x : Reg) (kk : Byte) (hm : m.toNat = op % 16 * 4096 + kk.toNat) :
    OpcodeRow.selects ⟨s, m, 0xF0FF⟩ (encXKK op x kk) = true := by
  apply selects_of_toNat
  have h := kk.isLt
  have hx := x.isLt
  have hw := (encXKK op x kk).isLt
  show (encXKK op x kk).toNat &&& 0xF0FF = m.toNat
  rw [and_F0FF _ hw, encXKK_toNat, hm]
  omega

theorem selects_XY (s : String) (m : Word) (op : Nat) (x y : Reg) (n : Nat) (hm : m.toNat = op % 16 * 4096 + n % 16) :
    OpcodeRow.selects ⟨s, m, 0xF00F⟩ (encXYN op x y n) = true := by
  apply selects_of_toNat
  have hx := x.isLt
  have hy := y.isLt
  have hw := (encXYN op x y n).isLt
  show (encXYN op x y n).toNat &&& 0xF00F = m.toNat
  rw [and_F00F _ hw, encXYN_toNat, hm]
  omega

theorem selects_XYN (s : String) (m : Word) (op : Nat) (x y : Reg) (n : Nat) (hm : m.toNat = op % 16 * 4096) :
    OpcodeRow.selects ⟨s, m, 0xF000⟩ (encXYN op x y n) = true := by
  apply selects_of_toNat
  have hx := x.isLt
  have hy := y.isLt
  have hw := (encXYN op x y n).isLt
  show (encXYN op x y n).toNat &&& 0xF000 = m.toNat
  rw [and_F000 _ hw, encXYN_toNat, hm]
  omega

theorem EncodeSelectsRow.cls : EncodeSelectsRow.Statement (.cls) :=
  fun _ => ⟨⟨"CLS", 0x00E0, 0xFFFF⟩, by decide, rfl, by decide⟩

theorem EncodeSelectsRow.ret : EncodeSelectsRow.Statement (.ret) :=
  fun _ => ⟨⟨"RET", 0x00EE, 0xFFFF⟩, by decide, rfl, by decide⟩

theorem EncodeSelectsRow.jp (nnn : Addr12) : EncodeSelectsRow.Statement (.jp nnn) :=
  fun _ => ⟨⟨"JP_nnn", 0x1000, 0xF000⟩, by decide, rfl, selects_NNN _ _ _ _ rfl⟩

theorem EncodeSelectsRow.call (nnn : Addr12) : EncodeSelectsRow.Statement (.call nnn) :=
  fun _ => ⟨⟨"CALL_nnn", 0x2000, 0xF000⟩, by decide, rfl, selects_NNN _ _ _ _ rfl⟩

theorem EncodeSelectsRow.seImm (x : Reg) (kk : Byte) : EncodeSelectsRow.Statement (.seImm x kk) :=
  fun _ => ⟨⟨"SE_Vx__kk", 0x3000, 0xF000⟩, by decide, rfl, selects_XKK _ _ _ _ _ rfl⟩

theorem EncodeSelectsRow.sneImm (x : Reg) (kk : Byte) : EncodeSelectsRow.Statement (.sneImm x kk) :=
  fun _ => ⟨⟨"SNE_Vx__kk", 0x4000, 0xF000⟩, by decide, rfl, selects_XKK _ _ _ _ _ rfl⟩

theorem EncodeSelectsRow.seReg (x y : Reg) : EncodeSelectsRow.Statement (.seReg x y) :=
  fun _ => ⟨⟨"SE_Vx__Vy", 0x5000, 0xF00F⟩, by decide, rfl, selects_XY _ _ _ _ _ _ rfl⟩

theorem EncodeSelectsRow.ldImm (x : Reg) (kk : Byte) : EncodeSelectsRow.Statement (.ldImm x kk) :=
  fun _ => ⟨⟨"LD_Vx__kk", 0x6000, 0xF000⟩, by decide, rfl, selects_XKK _ _ _ _ _ rfl⟩

theorem EncodeSelectsRow.addImm (x : Reg) (kk : Byte) : EncodeSelectsRow.Statement (.addImm x kk) :=
  fun _ => ⟨⟨"ADD_Vx__kk", 0x7000, 0xF000⟩, by decide, rfl, selects_XKK _ _ _ _ _ rfl⟩

theorem EncodeSelectsRow.ldReg (x y : Reg) : EncodeSelectsRow.Statement (.ldReg x y) :=
  fun _ => ⟨⟨"LD_Vx__Vy", 0x8000, 0xF00F⟩, by decide, rfl, selects_XY _ _ _ _ _ _ rfl⟩

theorem EncodeSelectsRow.orReg (x y : Reg) : EncodeSelectsRow.Statement (.orReg x y) :=
  fun _ => ⟨⟨"OR_Vx__Vy", 0x8001, 0xF00F⟩, by decide, rfl, selects_XY _ _ _ _ _ _ rfl⟩

theorem EncodeSelectsRow.andReg (x y : Reg) : EncodeSelectsRow.Statement (.andReg x y) :=
  fun _ => ⟨⟨"AND_Vx__Vy", 0x8002, 0xF00F⟩, by decide, rfl, selects_XY _ _ _ _ _ _ rfl⟩

theorem EncodeSelectsRow.xorReg (x y : Reg) : EncodeSelectsRow.Statement (.xorReg x y) :=
  fun _ => ⟨⟨"XOR_Vx__Vy", 0x8003, 0xF00F⟩, by decide, rfl, selects_XY _ _ _ _ _ _ rfl⟩

theorem EncodeSelectsRow.addReg (x y : Reg) : EncodeSelectsRow.Statement (.addReg x y) :=
  fun _ => ⟨⟨"ADD_Vx__Vy", 0x8004, 0xF00F⟩, by decide, rfl, selects_XY _ _ _ _ _ _ rfl⟩

theorem EncodeSelectsRow.subReg (x y : Reg) : EncodeSelectsRow.Statement (.subReg x y) :=
  fun _ => ⟨⟨"SUB_Vx__Vy", 0x8005, 0xF00F⟩, by decide, rfl, selects_XY _ _ _ _ _ _ rfl⟩

theorem EncodeSelectsRow.shr (x : Reg) : EncodeSelectsRow.Statement (.shr x) :=
  fun _ => ⟨⟨"SHR_Vx", 0x8006, 0xF00F⟩, by decide, rfl, selects_XY _ _ _ _ _ _ rfl⟩

theorem EncodeSelectsRow.subnReg (x y : Reg) : EncodeSelectsRow.Statement (.subnReg x y) :=
  fun _ => ⟨⟨"SUBN_Vx__Vy", 0x8007, 0xF00F⟩, by decide, rfl, selects_XY _ _ _ _ _ _ rfl⟩

theorem EncodeSelectsRow.shl (x : Reg) : EncodeSelectsRow.Statement (.shl x) :=
  fun _ => ⟨⟨"SHL_Vx", 0x800E, 0xF00F⟩, by decide, rfl, selects_XY _ _ _ _ _ _ rfl⟩

theorem EncodeSelectsRow.sneReg (x y : Reg) : EncodeSelectsRow.Statement (.sneReg x y) :=
  fun _ => ⟨⟨"SNE_Vx__Vy", 0x9000, 0xF00F⟩, by decide, rfl, selects_XY _ _ _ _ _ _ rfl⟩

theorem EncodeSelectsRow.ldI (nnn : Addr12) : EncodeSelectsRow.Statement (.ldI nnn) :=
  fun _ => ⟨⟨"LD_I__nnn", 0xA000, 0xF000⟩, by decide, rfl, selects_NNN _ _ _ _ rfl⟩

theorem EncodeSelectsRow.jpV0 (nnn : Addr12) : EncodeSelectsRow.Statement (.jpV0 nnn) :=
  fun _ => ⟨⟨"JP_V0__nnn", 0xB000, 0xF000⟩, by decide, rfl, selects_NNN _ _ _ _ rfl⟩

theorem EncodeSelectsRow.rnd (x : Reg) (kk : Byte) : EncodeSelectsRow.Statement (.rnd x kk) :=
  fun _ => ⟨⟨"RND_Vx__kk", 0xC000, 0xF000⟩, by decide, rfl, selects_XKK _ _ _ _ _ rfl⟩

theorem EncodeSelectsRow.drw (x y : Reg) (n : Nat) : EncodeSelectsRow.Statement (.drw x y n) :=
  fun _ => ⟨⟨"DRW_Vx__Vy__n", 0xD000, 0xF000⟩, by decide, rfl, selects_XYN _ _ _ _ _ _ rfl⟩

theorem EncodeSelectsRow.skp (x : Reg) : EncodeSelectsRow.Statement (.skp x) :=
  fun _ => ⟨⟨"SKP_Vx", 0xE09E, 0xF0FF⟩, by decide, rfl, selects_X _ _ _ _ _ rfl⟩

theorem EncodeSelectsRow.sknp (x : Reg) : EncodeSelectsRow.Statement (.sknp x) :=
  fun _ => ⟨⟨"SKNP_Vx", 0xE0A1, 0xF0FF⟩, by decide, rfl, selects_X _ _ _ _ _ rfl⟩

theorem EncodeSelectsRow.ldVxDT (x : Reg) : EncodeSelectsRow.Statement (.ldVxDT x) :=
  fun _ => ⟨⟨"LD_Vx__DT", 0xF007, 0xF0FF⟩, by decide, rfl, selects_X _ _ _ _ _ rfl⟩

theorem EncodeSelectsRow.ldVxK (x : Reg) : EncodeSelectsRow.Statement (.ldVxK x) :=
  fun _ => ⟨⟨"LD_Vx__K", 0xF00A, 0xF0FF⟩, by decide, rfl, selects_X _ _ _ _ _ rfl⟩

theorem EncodeSelectsRow.ldDTVx (x : Reg) : EncodeSelectsRow.Statement (.ldDTVx x) :=
  fun _ => ⟨⟨"LD_DT__Vx", 0xF015, 0xF0FF⟩, by decide, rfl, selects_X _ _ _ _ _ rfl⟩

theorem EncodeSelectsRow.ldSTVx (x : Reg) : EncodeSelectsRow.Statement (.ldSTVx x) :=
  fun _ => ⟨⟨"LD_ST__Vx", 0xF018, 0xF0FF⟩, by decide, rfl, selects_X _ _ _ _ _ rfl⟩

theorem EncodeSelectsRow.addI (x : Reg) : EncodeSelectsRow.Statement (.addI x) :=
  fun _ => ⟨⟨"ADD_I__Vx", 0xF01E, 0xF0FF⟩, by decide, rfl, selects_X _ _ _ _ _ rfl⟩

theorem EncodeSelectsRow.ldF (x : Reg) : EncodeSelectsRow.Statement (.ldF x) :=
  fun _ => ⟨⟨"LD_F__Vx", 0xF029, 0xF0FF⟩, by decide, rfl, selects_X _ _ _ _ _ rfl⟩

end Sys2Proof.Laws
end

