-- ==== Sys2Proof/Laws/Answers.lean ====
section
/-! SUPPORT. What the branching instructions answer, the frames of the common shapes of an update, and how a family's
mask fixes the decoding. -/

namespace Sys2Proof.Machine

open Sys2Proof.Laws

/-! What the instructions that branch answer. -/

theorem exec_call_of_push (nnn : Addr12) (s t : State) (e : s.push s.pc = .ok t) :
    exec (.call nnn) s = .next (t.jump (zext16 nnn)) := by simp [exec, execCall, e]

theorem exec_call_of_overflow (nnn : Addr12) (s : State) (c : Cause) (e : s.push s.pc = .error c) :
    exec (.call nnn) s = .next (s.enterFault c) := by simp [exec, execCall, e]

theorem exec_ret_of_pop (s t : State) (a : Word) (e : s.pop = .ok (a, t)) :
    exec .ret s = .next (t.jump a).advanceOne := by simp [exec, execRet, e]

theorem exec_ret_of_underflow (s : State) (c : Cause) (e : s.pop = .error c) :
    exec .ret s = .next (s.enterFault c) := by simp [exec, execRet, e]

theorem exec_drw_of_none (x y : Reg) (n : Nat) (s : State) (e : spriteCause s.i.toNat n = none) :
    exec (.drw x y n) s =
      .next ({ s with fb := (s.blit x y n).fb }.setV VF (flagByte (s.blit x y n).hit)).advanceOne := by
  simp [exec, execDrw, e]

theorem exec_drw_of_some (x y : Reg) (n : Nat) (s : State) (c : Cause) (e : spriteCause s.i.toNat n = some c) :
    exec (.drw x y n) s = .next (s.enterFault c) := by simp [exec, execDrw, e]

theorem exec_ldVxK_of_nil (x : Reg) (s : State) (e : s.pressedKeys = []) : exec (.ldVxK x) s = .next s := by
  simp [exec, execLdVxK, e]

theorem exec_ldVxK_of_cons (x k : Reg) (ks : List Reg) (s : State) (e : s.pressedKeys = k :: ks) :
    exec (.ldVxK x) s = .next (s.setV x (BitVec.ofNat 8 k.val)).advanceOne := by simp [exec, execLdVxK, e]

/-- An instruction that is next in line is what ExecuteInstruction runs (40_decode_dispatch.md R90 to R93). -/
theorem executeInstruction_of_next (s : State) (i : Instr) (h : s.NextInstr i) : executeInstruction s = exec i s := by
  simp [executeInstruction, h.running, State.fetch, memRead16_ok _ _ h.fetchable, executeWord, h.decodes]

/-! Frames. -/

/-- A frame with no register in it follows from equal register files. -/
theorem State.changesOnly_of_v (s t : State) (l : List Part) (h : t.v = s.v) (hp : ∀ p, p ∉ l → s.sameIn t p) :
    s.changesOnly t [] l :=
  ⟨fun r _ => State.getV_congr _ _ h r, hp⟩

/-- Writing one register and advancing. -/
theorem State.setV_advanceOne_frame (s : State) (x : Reg) (b : Byte) :
    ((s.setV x b).advanceOne).getV x = b ∧ ((s.setV x b).advanceOne).pc = s.pc + 2 ∧
    s.changesOnly (s.setV x b).advanceOne [x] [.pc] := by
  refine ⟨by simp, by simp, fun r hr => ?_, fun p hp => ?_⟩
  · simp at hr; simp [State.getV_setV, hr]
  · cases p <;> simp_all [State.sameIn]

/-- Writing a result and a flag, in either order, and advancing. -/
theorem State.flagWrite_frame (s u : State) (x : Reg) (r : Byte) (f : Bool)
    (hu : u = s.resultThenFlag x r f ∨ u = s.flagThenResult x r f) :
    u.advanceOne.pc = s.pc + 2 ∧ s.changesOnly u.advanceOne [x, VF] [.pc] := by
  refine ⟨by rcases hu with rfl | rfl <;> simp, fun q hq => ?_, fun p hp => ?_⟩
  · simp at hq
    rcases hu with rfl | rfl <;> simp [State.getV_resultThenFlag, State.getV_flagThenResult, hq]
  · rcases hu with rfl | rfl <;> cases p <;> simp_all [State.sameIn]

/-- A skip writes pc only. -/
theorem State.skipIf_frame (s : State) (c : Bool) : s.changesOnly (s.skipIf c) [] [.pc] := by
  refine State.changesOnly_of_v _ _ _ (by cases c <;> rfl) fun p hp => ?_
  cases c <;> cases p <;> simp_all [State.sameIn]

/-- Fault entry writes the latch only (60_exceptions.md R218). -/
theorem State.enterFault_frame (s : State) (c : Cause) : s.changesOnly (s.enterFault c) [] [.latch] :=
  State.changesOnly_of_v _ _ _ rfl fun p hp => by cases p <;> simp_all [State.sameIn]

/-- The tick writes the timers and the output pulse only (43_index_timers.md R166). -/
theorem State.tickTimers_frame (s : State) : s.changesOnly s.tickTimers [] [.dt, .st, .toneEnd] :=
  State.changesOnly_of_v _ _ _ rfl fun p hp => by cases p <;> simp_all [State.sameIn]

/-- A frame may be widened. -/
theorem State.changesOnly_mono (s t : State) (r r' : List Reg) (l l' : List Part) (h : s.changesOnly t r l)
    (hr : ∀ x, x ∈ r → x ∈ r') (hl : ∀ p, p ∈ l → p ∈ l') : s.changesOnly t r' l' :=
  ⟨fun x hx => h.1 x (fun a => hx (hr x a)), fun p hp => h.2 p (fun a => hp (hl p a))⟩

/-! Decoding by mask. -/

/-- A row without sub-key: the dispatch on `op` alone decides. -/
theorem decodesAs_F000 (m : Word) (op : Nat) (F : Fields → Instr) (hm : m.toNat = op * 4096)
    (hd : ∀ f : Fields, f.op.val = op → dispatch true f = some (F f)) : DecodesAs m 0xF000 F := by
  intro w h
  have hw := w.isLt
  have e : w.toNat &&& 0xF000 = m.toNat := by rw [← h, BitVec.toNat_and]; rfl
  rw [and_F000 _ hw, hm] at e
  exact decode_of_dispatch _ _ (hd _ (by rw [fields_op]; omega))

/-- A row with the sub-key `n`. -/
theorem decodesAs_F00F (m : Word) (op n : Nat) (F : Fields → Instr) (hn : n < 16) (hm : m.toNat = op * 4096 + n)
    (hd : ∀ f : Fields, f.op.val = op → f.n.val = n → dispatch true f = some (F f)) : DecodesAs m 0xF00F F := by
  intro w h
  have hw := w.isLt
  have e : w.toNat &&& 0xF00F = m.toNat := by rw [← h, BitVec.toNat_and]; rfl
  rw [and_F00F _ hw, hm] at e
  exact decode_of_dispatch _ _ (hd _ (by rw [fields_op]; omega) (by rw [fields_n]; omega))

/-- A row with the sub-key `kk`. -/
theorem decodesAs_F0FF (m : Word) (op : Nat) (kk : Byte) (F : Fields → Instr) (hm : m.toNat = op * 4096 + kk.toNat)
    (hd : ∀ f : Fields, f.op.val = op → f.kk = kk → dispatch true f = some (F f)) : DecodesAs m 0xF0FF F := by
  intro w h
  have hw := w.isLt
  have hk := kk.isLt
  have e : w.toNat &&& 0xF0FF = m.toNat := by rw [← h, BitVec.toNat_and]; rfl
  rw [and_F0FF _ hw, hm] at e
  exact decode_of_dispatch _ _ (hd _ (by rw [fields_op]; omega) (BitVec.eq_of_toNat_eq (by rw [fields_kk]; omega)))

/-- A row of one word. -/
theorem decodesAs_FFFF (m : Word) (i : Instr) (h : decode m = .ok i) : DecodesAs m 0xFFFF (fun _ => i) := by
  intro w hw
  have e : w &&& 0xFFFF = w := by
    have : (0xFFFF : Word) = BitVec.allOnes 16 := rfl
    rw [this, BitVec.and_allOnes]
  rw [e] at hw
  subst hw
  exact h

end Sys2Proof.Machine
end

