-- ==== Sys2Proof/Tests/Slice0.lean ====
section
/-! SUPPORT. The model's own tests: well-formedness, decoding of words written out from the spec's encodings, one Step
per instruction on vectors of 95_test_vectors.md, and a witness for every statement that has hypotheses. -/

namespace Sys2Proof.Tests

/- One theorem after another: many evaluations side by side each take a thread of their own. -/
set_option Elab.async false

open Machine

/-- The state with the word `w` next in line. -/
def ready (w : Nat) (s : State) : State := s.withFetchWord 16 w

/-- The state after one Step. -/
def ran (s : State) : State :=
  match step s with
  | .next t => t
  | .fault _ => s
  | .refused _ => s

/-- The answer is the next state `t`. -/
def nextIs (r : Result) (t : State) : Bool :=
  match r with
  | .next u => decide (u = t)
  | .fault _ => false
  | .refused _ => false

theorem next_of_nextIs (r : Result) (t : State) (h : nextIs r t = true) : r = .next t := by
  cases r with
  | next u => exact congrArg _ (of_decide_eq_true h)
  | fault f => cases h
  | refused f => cases h

/-- The reset state with two registers set. -/
def two (x : Reg) (a : Byte) (y : Reg) (b : Byte) : State := (State.reset.setV x a).setV y b

/-- The reset state with program bytes loaded at 0x300, where the sprites of the vectors lie. -/
def sprite (bytes : List Byte) : State := { State.reset with mem := memPutAll [] 0x300 bytes, i := 0x300 }

/-- The framebuffer whose lit cells are those listed. -/
def lit (cells : List Nat) : Framebuffer := cells.foldl (fun fb a => fb ||| BitVec.twoPow 2048 a) 0

/-! Well-formedness: the one check refuses a term that breaks it. -/

theorem test_wf_rejects_sixteen_rows : Instr.wellFormed (.drw 0 0 16) = false := by decide
theorem test_wf_accepts_fifteen_rows : Instr.wellFormed (.drw 15 15 15) = true := by decide
theorem test_wf_accepts_the_rest : Instr.wellFormed .cls = true ∧ Instr.wellFormed (.jp 0xFFF) = true := by decide

/-! Decoding: every constructor from a word written out bit by bit from 30_encoding.md section 3. -/

theorem test_decode_family_0 :
    decode 0b0000_0000_1110_0000 = .ok .cls ∧ decode 0b0000_0000_1110_1110 = .ok .ret := by decide
theorem test_decode_families_1_2_A_B :
    decode 0b0001_0101_0100_0010 = .ok (.jp 0x542) ∧ decode 0b0010_0101_0100_0010 = .ok (.call 0x542) ∧
    decode 0b1010_0000_0101_0000 = .ok (.ldI 0x050) ∧ decode 0b1011_0011_0000_0000 = .ok (.jpV0 0x300) := by decide
theorem test_decode_skips :
    decode 0b0011_0011_0010_1010 = .ok (.seImm 3 0x2A) ∧ decode 0b0100_0011_0010_1010 = .ok (.sneImm 3 0x2A) ∧
    decode 0b0101_0001_0010_0000 = .ok (.seReg 1 2) ∧ decode 0b1001_0001_0010_0000 = .ok (.sneReg 1 2) := by decide
theorem test_decode_families_6_7_C_D :
    decode 0b0110_1010_0010_1010 = .ok (.ldImm 10 0x2A) ∧ decode 0b0111_0000_0000_0101 = .ok (.addImm 0 0x05) ∧
    decode 0b1100_0001_0000_1101 = .ok (.rnd 1 0x0D) ∧ decode 0b1101_0010_0011_0101 = .ok (.drw 2 3 5) := by decide
theorem test_decode_family_8_low :
    decode 0b1000_0001_0010_0000 = .ok (.ldReg 1 2) ∧ decode 0b1000_0001_0010_0001 = .ok (.orReg 1 2) ∧
    decode 0b1000_0001_0010_0010 = .ok (.andReg 1 2) ∧ decode 0b1000_0001_0010_0011 = .ok (.xorReg 1 2) ∧
    decode 0b1000_0001_0010_0100 = .ok (.addReg 1 2) := by decide
theorem test_decode_family_8_high :
    decode 0b1000_0111_0100_0101 = .ok (.subReg 7 4) ∧ decode 0b1000_0000_0001_0110 = .ok (.shr 0) ∧
    decode 0b1000_0111_0100_0111 = .ok (.subnReg 7 4) ∧ decode 0b1000_0000_0001_1110 = .ok (.shl 0) := by decide
theorem test_decode_families_E_F :
    decode 0b1110_0010_1001_1110 = .ok (.skp 2) ∧ decode 0b1110_0010_1010_0001 = .ok (.sknp 2) ∧
    decode 0b1111_0001_0000_0111 = .ok (.ldVxDT 1) ∧ decode 0b1111_0010_0000_1010 = .ok (.ldVxK 2) ∧
    decode 0b1111_0000_0001_0101 = .ok (.ldDTVx 0) ∧ decode 0b1111_0000_0001_1000 = .ok (.ldSTVx 0) ∧
    decode 0b1111_0010_0001_1110 = .ok (.addI 2) ∧ decode 0b1111_1111_0010_1001 = .ok (.ldF 15) := by decide
/-- T1 to T10: unknown words, refused by name. -/
theorem test_decode_unknown_words :
    ([0x0000, 0x00E1, 0x0123, 0x5121, 0x9AB1, 0x8008, 0x812F, 0xE09F, 0xF033, 0xF01F] : List Word).all
      (fun w => decide (decode w = .error (.unknownOpcode w))) = true := by decide
theorem test_decodeTableWord : decodeTableWord 16 0xD233 = some (.drw 2 3 3) ∧ decodeTableWord 16 0x0000 = none := by
  decide
theorem test_decode_bytes_big_endian : decodeBytes [0x15, 0x42, 0x07] = .ok (.jp 0x542, [0x07]) := by decide
theorem test_decode_truncated : decodeBytes [0x15] = .error .truncated := by decide

/-! One Step per instruction. -/

/-- S4. -/
theorem test_cls :
    (ran (ready 0x00E0 { State.reset with fb := lit [0, 100, 2047] })).fb = 0 ∧
    (ran (ready 0x00E0 (State.reset.setV VF 1))).getV VF = 1 := by decide +kernel
/-- T25 and T26. -/
theorem test_ret :
    (ran (ready 0x00EE State.reset)).faultCode = 1 ∧
    (ran (ready 0x00EE { State.reset with pc := 0x208, sp := 1, stk := Vector.replicate 16 0x200 })).pc = 0x202 := by
  decide +kernel
/-- S6 and T21. -/
theorem test_jp :
    (ran (ready 0x1542 State.reset)).pc = 0x542 ∧ (ran (ran (ready 0x1FFF State.reset))).faultInfo = 0x1000 := by
  decide +kernel
/-- S7 and T24. -/
theorem test_call :
    (ran (ready 0x2542 State.reset)).stk[0] = 0x200 ∧ (ran (ready 0x2542 State.reset)).pc = 0x542 ∧
    (ran (ready 0x2300 { State.reset with sp := 16 })).faultCode = 4 := by decide +kernel
/-- T30 and T32. -/
theorem test_seImm :
    (ran (ready 0x3000 State.reset)).pc = 0x204 ∧ (ran (ready 0x3F01 (State.reset.setV VF 2))).pc = 0x202 := by
  decide +kernel
/-- T31 and T33. -/
theorem test_sneImm :
    (ran (ready 0x40FF (State.reset.setV 0 0xFF))).pc = 0x202 ∧ (ran (ready 0x4F01 State.reset)).pc = 0x204 := by
  decide +kernel
/-- T34 and the unequal case of R118. -/
theorem test_seReg :
    (ran (ready 0x5010 State.reset)).pc = 0x204 ∧ (ran (ready 0x5010 (State.reset.setV 1 1))).pc = 0x202 := by
  decide +kernel
/-- T35 and the unequal case of R119. -/
theorem test_sneReg :
    (ran (ready 0x9010 State.reset)).pc = 0x202 ∧ (ran (ready 0x9010 (State.reset.setV 1 1))).pc = 0x204 := by
  decide +kernel
/-- T40 and T41. -/
theorem test_ldImm :
    (ran (ready 0x6A2A State.reset)).getV 10 = 0x2A ∧ (ran (ready 0x6FFF State.reset)).getV VF = 0xFF := by
  decide +kernel
/-- T43 and T44. -/
theorem test_addImm :
    (ran (ready 0x7001 (two 0 0xFF VF 0x55))).getV 0 = 0 ∧ (ran (ready 0x7001 (two 0 0xFF VF 0x55))).getV VF = 0x55 ∧
    (ran (ready 0x7F01 (State.reset.setV VF 0xFF))).getV VF = 0 := by decide +kernel
/-- T45. -/
theorem test_ldReg : (ran (ready 0x8120 (State.reset.setV 2 0x37))).getV 1 = 0x37 := by decide +kernel
/-- T46. -/
theorem test_orReg : (ran (ready 0x8121 (two 1 0xF0 2 0x0F))).getV 1 = 0xFF := by decide +kernel
/-- T47. -/
theorem test_andReg : (ran (ready 0x8122 (two 1 0xF3 2 0x3F))).getV 1 = 0x33 := by decide +kernel
/-- T48 and T49. -/
theorem test_xorReg :
    (ran (ready 0x8123 (two 1 0xFF 2 0x0F))).getV 1 = 0xF0 ∧
    (ran (ready 0x8113 (State.reset.setV 1 0x5A))).getV 1 = 0 := by
  decide +kernel
/-- T50 and T51. -/
theorem test_addReg :
    (ran (ready 0x8014 (two 0 0xFF VF 0x07))).getV VF = 0 ∧ (ran (ready 0x8014 (two 0 0xFF 1 0x01))).getV 0 = 0 ∧
    (ran (ready 0x8014 (two 0 0xFF 1 0x01))).getV VF = 1 := by decide +kernel
/-- T70 and T77. -/
theorem test_addReg_with_VF :
    (ran (ready 0x8F14 (two VF 0xF0 1 0x20))).getV VF = 1 ∧ (ran (ready 0x81F4 (two 1 0xFF VF 0x01))).getV 1 = 0 := by
  decide +kernel
/-- S8 and T54. -/
theorem test_subReg :
    (ran (ready 0x8745 (two 4 0x01 7 0x10))).getV 7 = 0x0F ∧ (ran (ready 0x8745 (two 4 0x01 7 0x10))).getV VF = 1 ∧
    (ran (ready 0x8015 (two 0 0x33 1 0x33))).getV VF = 1 := by decide +kernel
/-- T55 and T71. -/
theorem test_subReg_borrow :
    (ran (ready 0x8015 (two 1 0x01 VF 0x01))).getV 0 = 0xFF ∧ (ran (ready 0x8015 (two 1 0x01 VF 0x01))).getV VF = 0 ∧
    (ran (ready 0x8F15 (two VF 0x10 1 0x01))).getV VF = 0x0F := by decide +kernel
/-- T57 and T58. -/
theorem test_shr :
    (ran (ready 0x8016 (two 0 0x01 1 0xFF))).getV 0 = 0 ∧ (ran (ready 0x8016 (two 0 0x01 1 0xFF))).getV VF = 1 ∧
    (ran (ready 0x8016 (State.reset.setV 0 0x80))).getV 0 = 0x40 := by decide +kernel
/-- T72. -/
theorem test_shr_of_VF : (ran (ready 0x8F06 (State.reset.setV VF 0x05))).getV VF = 0x02 := by decide +kernel
/-- T63 and T64. -/
theorem test_subnReg :
    (ran (ready 0x8747 (two 4 0x01 7 0x10))).getV 7 = 0xF1 ∧ (ran (ready 0x8747 (two 4 0x01 7 0x10))).getV VF = 0 ∧
    (ran (ready 0x8477 (two 4 0x01 7 0x10))).getV 4 = 0x0F := by decide +kernel
/-- T73. -/
theorem test_subnReg_with_VF : (ran (ready 0x8F17 (two VF 0x01 1 0x10))).getV VF = 0x0F := by decide +kernel
/-- T65 and T66. -/
theorem test_shl :
    (ran (ready 0x801E (State.reset.setV 0 0x80))).getV VF = 1 ∧
    (ran (ready 0x801E (two 0 0x7F VF 0x01))).getV 0 = 0xFE ∧
    (ran (ready 0x801E (two 0 0x7F VF 0x01))).getV VF = 0 := by decide +kernel
/-- T74. -/
theorem test_shl_of_VF : (ran (ready 0x8FEE (State.reset.setV VF 0x81))).getV VF = 0x02 := by decide +kernel
/-- T80 and T81. -/
theorem test_ldI :
    (ran (ready 0xA050 State.reset)).i = 0x050 ∧ (ran (ready 0xAFFF State.reset)).i = 0xFFF ∧
    (ran (ready 0xAFFF State.reset)).halted = false := by decide +kernel
/-- T28 and T29. -/
theorem test_jpV0 :
    (ran (ready 0xB300 (State.reset.setV 0 0x04))).pc = 0x304 ∧
    (ran (ran (ready 0xBFFF (State.reset.setV 0 0xFF)))).faultInfo = 0x10FE := by decide +kernel
/-- S9: the byte is masked by `kk`, whatever it is. -/
theorem test_rnd : exec (.rnd 1 0x0D) State.reset =
    .next { (State.reset.setV 1 (0x0D &&& Config.rnd 0)).advanceOne with rndDraws := 1 } := rfl
/-- T69. -/
theorem test_rnd_zero : exec (.rnd 3 0x00) (State.reset.setV 3 0x09) =
    .next ((State.reset.setV 3 0x09).drawRnd.setV 3 0).advanceOne :=
  congrArg (fun b : Byte => (Host.Outcome.next ((State.reset.setV 3 0x09).drawRnd.setV 3 b).advanceOne : Result))
    BitVec.zero_and
/-- T111 and T113: columns wrap, the start is reduced. -/
theorem test_drw_wraps :
    (ran (ready 0xD011 ((sprite [0xFF]).setV 0 62))).fb = lit [62, 63, 0, 1, 2, 3, 4, 5] ∧
    (ran (ready 0xD011 (((sprite [0x80]).setV 0 200).setV 1 100))).fb = lit [264] := by decide +kernel
/-- T115 and T117: collision, and a sprite out of bounds draws nothing. -/
theorem test_drw_collides :
    (ran (ready 0xD011 { sprite [0xF0] with fb := lit [3, 4] })).fb = lit [0, 1, 2, 4] ∧
    (ran (ready 0xD011 { sprite [0xF0] with fb := lit [3, 4] })).getV VF = 1 ∧
    (ran (ready 0xD013 { State.reset with i := 0xFFE, fb := lit [0] })).faultInfo = 0x1000 ∧
    (ran (ready 0xD013 { State.reset with i := 0xFFE, fb := lit [0] })).fb = lit [0] := by decide +kernel
/-- T134 and T135. -/
theorem test_skp :
    (ran (ready 0xE09E { State.reset.setV 0 0x0F with keys := 0x8000 })).pc = 0x204 ∧
    (ran (ready 0xE09E { State.reset.setV 0 0x13 with keys := 0x0008 })).pc = 0x204 ∧
    (ran (ready 0xE09E State.reset)).pc = 0x202 := by decide +kernel
/-- T136 and T137. -/
theorem test_sknp :
    (ran (ready 0xE0A1 { State.reset.setV 0 0x13 with keys := 0x0008 })).pc = 0x202 ∧
    (ran (ready 0xE0A1 State.reset)).pc = 0x204 := by decide +kernel
/-- T89. -/
theorem test_ldVxDT :
    (ran (ready 0xF107 { State.reset with dt := 2 })).getV 1 = 2 ∧
    (ran (ready 0xF107 { State.reset with dt := 2 })).dt = 1 := by
  decide +kernel
/-- T138 and S11: the lowest key, and a blocked Step, which ticks. -/
theorem test_ldVxK :
    (ran (ready 0xFF0A { State.reset.setV VF 7 with keys := 0x0201 })).getV VF = 0 ∧
    (ran (ready 0xF00A { State.reset with dt := 3, st := 1 })).pc = 0x200 ∧
    (ran (ready 0xF00A { State.reset with dt := 3, st := 1 })).dt = 2 ∧
    (ran (ready 0xF00A { State.reset with dt := 3, st := 1 })).toneEnd = true := by decide +kernel
/-- T92 and T93. -/
theorem test_ldDTVx :
    (ran (ready 0xF015 (State.reset.setV 0 3))).dt = 2 ∧ (ran (ready 0xF015 { State.reset with dt := 5 })).dt = 0 := by
  decide +kernel
/-- T96 and T98. -/
theorem test_ldSTVx :
    (ran (ready 0xF018 (State.reset.setV 0 1))).toneEnd = true ∧
    (ran (ready 0xF018 { State.reset with st := 1 })).toneEnd = false := by decide +kernel
/-- T83 and T84. -/
theorem test_addI :
    (ran (ready 0xF01E { State.reset.setV 0 1 with i := 0xFFF })).i = 0 ∧
    (ran (ready 0xF01E { State.reset.setV 0 0xFF with i := 0xFFE })).i = 0x0FD := by decide +kernel
/-- T85 and T88. -/
theorem test_ldF :
    (ran (ready 0xF029 (State.reset.setV 0 0x0A))).i = 0x032 ∧
    (ran (ready 0xF029 (State.reset.setV 0 0xFF))).i = 0x4FB := by
  decide +kernel

/-! The Step, faults and the host's moves. -/

/-- T1, T101: an unknown word, no tick. -/
theorem test_unknown_opcode :
    (ran { State.reset with dt := 5 }).faultCode = 2 ∧ (ran { State.reset with dt := 5 }).dt = 5 := by decide +kernel
/-- T12, T14: the last word of memory, and an odd address. -/
theorem test_fetch_places :
    (ran (ready 0x6A01 { State.reset with pc := 0xFFE })).pc = 0x1000 ∧
    (ran (ready 0x6307 { State.reset with pc := 0x201 })).getV 3 = 7 := by decide +kernel
/-- T13: a HALTED core does not tick. -/
theorem test_halted : (ran { State.reset with halted := true, dt := 5, toneEnd := true }).dt = 5 ∧
    (ran { State.reset with halted := true, dt := 5, toneEnd := true }).toneEnd = false := by decide +kernel
/-- S12. -/
theorem test_font : memBytes State.reset.mem 0 5 = [0xF0, 0x90, 0x90, 0x90, 0xF0] := by decide
/-- T154, and the byte order in memory. -/
theorem test_load : nextIs (portLoad [0x12, 0x00] { State.reset with pc := 0x300 })
    { State.reset with pc := 0x300, mem := [(0x200, 0x12)] } = true := by decide +kernel
/-- T151. -/
theorem test_load_overflow : nextIs (portLoad (List.replicate 3585 0) State.reset)
    { State.reset with halted := true, faultCode := 3, faultInfo := 0x1000 } = true := by decide +kernel
/-- T153. -/
theorem test_reset_keeps_keys : portReset { State.reset with keys := 0x0084, dt := 9, halted := true } =
    { State.reset with keys := 0x0084 } := by decide +kernel
/-- What another RESET_FILL would put into wider and narrower state. -/
theorem test_fill : fillWord 0xA5 = 0x00A5 ∧ (fillCells 0xA5).getLsbD 2047 = true ∧ fillCells 0xA4 = 0 := by
  decide +kernel
/-- The canonical form: writing the value an unlisted address reads as removes the entry. -/
theorem test_mem_canonical :
    memPut [(0x300, 1)] 0x300 0 = [] ∧ memPut [(0x300, 1)] 0x200 2 = [(0x200, 2), (0x300, 1)] := by
  decide
/-- The values of the parameters that are not taken: their operations still say what they do. -/
theorem test_other_policies :
    glyphAddressOf .mask 0x13 = some 0x00F ∧ glyphAddressOf .fault 0x10 = none ∧ keyIndexOf .fault 0x10 = none ∧
    cellAddrOf .clip 64 0 = none ∧ cellAddrOf .linear 64 0 = some 64 ∧ decodeWith false 0x5121 = .ok (.seReg 1 2) ∧
    nextIs (portTickOf .hostTick { State.reset with dt := 2 }) { State.reset with dt := 1 } = true := by decide +kernel

/-! Witnesses: for every statement with hypotheses, a state and operands that meet all of them together. -/

/-- A state from its word is one with that instruction next in line. -/
theorem nextInstr_of (w : Nat) (s : State) (i : Instr) (h1 : (ready w s).halted = false)
    (h2 : (ready w s).pc.toNat ≤ 0xFFE)
    (h3 : decode (wordOfBytes (memByte (ready w s).mem (ready w s).pc.toNat)
      (memByte (ready w s).mem ((ready w s).pc.toNat + 1))) = .ok i) : (ready w s).NextInstr i := ⟨h1, h2, h3⟩

theorem witness_DecodeOfEncode : (Instr.drw 15 15 15).WellFormed ∧ (Instr.drw 0 0 0).WellFormed := by decide
theorem witness_DecoderFollowsTheOpcodeMap :
    (⟨"SHR_Vx", 0x8006, 0xF00F⟩ : OpcodeRow) ∈ opcodeMap ∧
    OpcodeRow.selects ⟨"SHR_Vx", 0x8006, 0xF00F⟩ 0x8FF6 = true ∧ decode 0x8FF6 = .ok (.shr 15) := by decide
theorem witness_OnlyTheShifts :
    decode 0xD233 = .ok (.drw 2 3 3) ∧ (∀ x, Instr.drw 2 3 3 ≠ .shr x) ∧ (∀ x, Instr.drw 2 3 3 ≠ .shl x) := by decide
theorem witness_StepRuns :
    (ready 0x1542 State.reset).NextInstr (.jp 0x542) ∧
    exec (.jp 0x542) (ready 0x1542 State.reset) = .next ((ready 0x1542 State.reset).jump 0x542) ∧
    ((ready 0x1542 State.reset).jump 0x542).halted = false :=
  ⟨nextInstr_of _ _ _ (by decide) (by decide) (by decide), next_of_nextIs _ _ (by decide +kernel), by decide⟩
theorem witness_StepRuns_fault :
    (ready 0x00EE State.reset).NextInstr .ret ∧
    exec .ret (ready 0x00EE State.reset) = .next ((ready 0x00EE State.reset).enterFault .stackUnderflow) :=
  ⟨nextInstr_of _ _ _ (by decide) (by decide) (by decide), next_of_nextIs _ _ (by decide +kernel)⟩
theorem witness_Fetch :
    ({ State.reset with pc := 0xFFE } : State).pc.toNat ≤ 0xFFE ∧
    0xFFF ≤ ({ State.reset with pc := 0xFFF } : State).pc.toNat ∧
    ({ State.reset with pc := 0xFFF } : State).halted = false := by decide
theorem witness_FaultsBeforeDispatch :
    State.reset.halted = false ∧ State.reset.pc.toNat ≤ 0xFFE ∧
    decode (wordOfBytes (memByte State.reset.mem State.reset.pc.toNat) (memByte State.reset.mem (State.reset.pc.toNat + 1))) =
      .error (.unknownOpcode (wordOfBytes (memByte State.reset.mem State.reset.pc.toNat)
        (memByte State.reset.mem (State.reset.pc.toNat + 1)))) := by decide
theorem witness_Halted : ({ State.reset with halted := true } : State).halted = true := rfl
theorem witness_FaultingStep :
    State.reset.halted = false ∧ step State.reset = .next (ran State.reset) ∧ (ran State.reset).halted = true :=
  ⟨by decide, next_of_nextIs _ _ (by decide +kernel), by decide +kernel⟩
/-- For the statements about a Step of a running core that raises no fault, and its instruction. -/
theorem witness_NonFaultingStep :
    (ready 0xA050 State.reset).halted = false ∧ (ready 0xA050 State.reset).NextInstr (.ldI 0x050) ∧
    (∀ x, Instr.ldI 0x050 ≠ .ldSTVx x) ∧
    step (ready 0xA050 State.reset) = .next (ran (ready 0xA050 State.reset)) ∧
    (ran (ready 0xA050 State.reset)).halted = false :=
  ⟨by decide, nextInstr_of _ _ _ (by decide) (by decide) (by decide), by decide,
    next_of_nextIs _ _ (by decide +kernel), by decide +kernel⟩
theorem witness_WriteSetOfEveryInstruction : exec .ret State.reset = .next (State.reset.enterFault .stackUnderflow) ∧
    exec .cls State.reset = .next State.reset.clearFb.advanceOne := ⟨rfl, rfl⟩
theorem witness_OnlyFlagWriters :
    exec (.ldImm 0 1) State.reset = .next (State.reset.setV 0 1).advanceOne ∧ VF ∉ (Instr.ldImm 0 1).writesV :=
  ⟨rfl, by decide⟩
theorem witness_OnlyFlagWriters_alu :
    (14 : Reg) ≠ VF ∧ exec (.addReg 14 0) State.reset = .next (State.reset.resultThenFlag 14 0 false).advanceOne ∧
    exec (.subReg 14 0) State.reset = .next (State.reset.flagThenResult 14 0 true).advanceOne ∧
    exec (.shr 14) State.reset = .next (State.reset.flagThenResult 14 0 false).advanceOne ∧
    exec (.subnReg 14 0) State.reset = .next (State.reset.flagThenResult 14 0 true).advanceOne ∧
    exec (.shl 14) State.reset = .next (State.reset.flagThenResult 14 0 false).advanceOne :=
  ⟨by decide, rfl, rfl, rfl, rfl, rfl⟩
theorem witness_SpriteFits :
    ({ State.reset with i := 0xFFF } : State).SpriteFits 0 ∧ ({ State.reset with i := 0xFFF } : State).SpriteFits 1 ∧
    ({ State.reset with i := 0xFF1 } : State).SpriteFits 15 := ⟨.inl rfl, .inr (by decide), .inr (by decide)⟩
theorem witness_Idle : (ready 0x1200 State.reset).IdleAt 0x200 :=
  ⟨by decide, by decide, by decide, by decide, by decide⟩
theorem witness_Idle_at_the_end : (ready 0x1FFE { State.reset with pc := 0xFFE }).IdleAt 0xFFE :=
  ⟨by decide, by decide, by decide, by decide, by decide⟩
theorem witness_StepKeepsTheInvariant :
    ({ State.reset with pc := 0x10FE, i := 0xFFF, sp := 1 } : State).Inv ∧
    step { State.reset with pc := 0x10FE, i := 0xFFF, sp := 1 } = .next (ran { State.reset with pc := 0x10FE, i := 0xFFF, sp := 1 }) :=
  ⟨⟨by decide, by decide, by decide, by decide, by decide, by decide⟩, next_of_nextIs _ _ (by decide +kernel)⟩
theorem witness_EntryPoint : (List.replicate 3582 (0x12 : Byte)).length ≤ 3582 := by decide +kernel
theorem witness_Reset : 15 < Config.stackDepth ∧ 0x050 ≤ 0x050 := by decide
theorem witness_Font : 15 < 16 ∧ 4 < 5 ∧ 5 * 15 + 4 < 0x050 ∧ step State.reset = .next (ran State.reset) :=
  ⟨by decide, by decide, by decide, next_of_nextIs _ _ (by decide +kernel)⟩
theorem witness_Call :
    ({ State.reset with sp := 15 } : State).sp.val < 16 ∧
    ({ State.reset with sp := 16 } : State).sp.val = 16 := by decide
theorem witness_Ret :
    ({ State.reset with sp := 16 } : State).sp.val = 15 + 1 ∧ ({ State.reset with sp := 1 } : State).sp.val = 0 + 1 ∧
    State.reset.sp.val = 0 := by decide
theorem witness_SkipsOnARegister :
    (0x5001 : Word).toNat / 4096 = 5 ∧ (0x5001 : Word).toNat % 16 ≠ 0 ∧ (0x9FFF : Word).toNat / 4096 = 9 ∧
    (0x9FFF : Word).toNat % 16 ≠ 0 := by decide
/-- Of each row of the opcode map, a word that selects it, for the statements that decode by mask. -/
theorem witness_DecodesAs : opcodeMap.all (fun r => r.selects r.matchBits) = true := by decide
/-- The operand of the clauses for a destination other than VF. -/
theorem witness_not_VF : (0 : Reg) ≠ VF ∧ (14 : Reg) ≠ VF ∧ ¬ (15 : Reg) ≠ VF := by decide
theorem witness_ReadDelayTimer : (ready 0xF107 State.reset).NextInstr (.ldVxDT 1) :=
  nextInstr_of _ _ _ (by decide) (by decide) (by decide)
theorem witness_SetTimers :
    (ready 0xF015 State.reset).NextInstr (.ldDTVx 0) ∧ (ready 0xF018 State.reset).NextInstr (.ldSTVx 0) :=
  ⟨nextInstr_of _ _ _ (by decide) (by decide) (by decide), nextInstr_of _ _ _ (by decide) (by decide) (by decide)⟩
theorem witness_Tick :
    0 < ({ State.reset with dt := 1, st := 1 } : State).dt.toNat ∧ State.reset.dt.toNat = 0 ∧
    0 < ({ State.reset with dt := 1, st := 1 } : State).st.toNat ∧ State.reset.st.toNat = 0 := by decide
theorem witness_Region : 0 + 64 * 0 + 2048 ≤ 2048 ∧ 63 + 64 * 31 + 1 ≤ 2048 ∧ 2048 < 63 + 64 * 31 + 2 := by decide
theorem witness_DrawOutOfBounds :
    1 ≤ 2 ∧ 0x1000 < ({ State.reset with i := 0xFFF } : State).i.toNat + 2 ∧
    0x1000 < ({ State.reset with i := 0xFFF } : State).i.toNat + 15 := by decide
/-- The state after a draw of glyph 0 at the origin. -/
def drawn : State := ran (ready 0xD015 State.reset)

theorem witness_DrawingTwice :
    5 ≤ 15 ∧ (ready 0xD015 State.reset).SpriteFits 5 ∧ drawn.SpriteFits 5 ∧
    drawn.getV 0 = (ready 0xD015 State.reset).getV 0 ∧ drawn.getV 1 = (ready 0xD015 State.reset).getV 1 :=
  ⟨by decide, .inr (by decide +kernel), .inr (by decide +kernel), by decide +kernel, by decide +kernel⟩
theorem witness_DrawingTwice_memory :
    ∀ row, row < 5 → memByte drawn.mem (drawn.i.toNat + row) =
      memByte (ready 0xD015 State.reset).mem ((ready 0xD015 State.reset).i.toNat + row) := by decide +kernel
theorem witness_DrawingTwice_framebuffer : exec (.drw 0 1 5) (ready 0xD015 State.reset) = .next drawn :=
  next_of_nextIs _ _ (by decide +kernel)
theorem witness_WaitForTheLowestKey :
    State.reset.keys = 0 ∧ ({ State.reset with keys := 0x8000 } : State).keys.getLsbD 15 = true ∧
    (∀ j, j < 15 → ({ State.reset with keys := 0x8000 } : State).keys.getLsbD j = false) ∧
    ({ State.reset with keys := 0xFFFF } : State).keys.getLsbD 0 = true := by decide
theorem witness_WaitForTheLowestKey_blocked :
    (ready 0xF00A State.reset).NextInstr (.ldVxK 0) ∧ (ready 0xF00A State.reset).keys = 0 :=
  ⟨nextInstr_of _ _ _ (by decide) (by decide) (by decide), by decide⟩
theorem witness_Load :
    Memory.wf State.reset.mem = true ∧ (List.replicate 3584 (1 : Byte)).length ≤ 3584 ∧
    3584 < (List.replicate 3585 (1 : Byte)).length := by decide +kernel
theorem witness_Keys : 15 < 16 ∧ 16 ≤ 16 := by decide
theorem witness_Memory : Memory.wf [(0x300, 1)] = true ∧ 0xFFF ≤ 0xFFF ∧ 0xFFF < 0x1000 := by decide

end Sys2Proof.Tests
end

section
/-! Encoding: the fields of a word as shifts and masks, the decoding of every row of the opcode map, and the reading
back of a word from the instruction it decodes to (30_encoding.md sections 1 to 4). -/

namespace Sys2Proof

/-! The fields of a word (R71). -/

theorem and_0xF (v : Nat) : v &&& 0xF = v % 16 := Nat.and_two_pow_sub_one_eq_mod v 4
theorem and_0xFF (v : Nat) : v &&& 0xFF = v % 256 := Nat.and_two_pow_sub_one_eq_mod v 8
theorem and_0xFFF (v : Nat) : v &&& 0xFFF = v % 4096 := Nat.and_two_pow_sub_one_eq_mod v 12

/-- The field `op` is the top nibble, so the shift alone reads it. -/
theorem fields_op_eq_shift (w : Word) : (fields w).op.val = w.toNat >>> 12 := by
  have hw := w.isLt
  rw [fields_op, Nat.shiftRight_eq_div_pow]
  omega

theorem fields_x_eq_shift_and (w : Word) : (fields w).x.val = (w.toNat >>> 8) &&& 0xF := by
  rw [fields_x, and_0xF, Nat.shiftRight_eq_div_pow]

theorem fields_y_eq_shift_and (w : Word) : (fields w).y.val = (w.toNat >>> 4) &&& 0xF := by
  rw [fields_y, and_0xF, Nat.shiftRight_eq_div_pow]

/-- The field `kk` is the fields `y` and `n` side by side. -/
theorem fields_kk_eq_y_n (w : Word) : (fields w).kk.toNat = 16 * (fields w).y.val + (fields w).n.val := by
  rw [fields_kk, fields_y, fields_n]
  omega

/-- The field `nnn` is the fields `x` and `kk` side by side. -/
theorem fields_nnn_eq_x_kk (w : Word) : (fields w).nnn.toNat = 256 * (fields w).x.val + (fields w).kk.toNat := by
  rw [fields_nnn, fields_x, fields_kk]
  omega

/-! A word is written again from its own fields, in each of the three formats (R72). -/

theorem encNNN_fields (w : Word) : encNNN (fields w).op.val (fields w).nnn = w := by
  apply BitVec.eq_of_toNat_eq
  have hw := w.isLt
  rw [encNNN_toNat, fields_op, fields_nnn]
  omega

theorem encXKK_fields (w : Word) : encXKK (fields w).op.val (fields w).x (fields w).kk = w := by
  apply BitVec.eq_of_toNat_eq
  have hw := w.isLt
  rw [encXKK_toNat, fields_op, fields_x, fields_kk]
  omega

theorem encXYN_fields (w : Word) : encXYN (fields w).op.val (fields w).x (fields w).y (fields w).n.val = w := by
  apply BitVec.eq_of_toNat_eq
  have hw := w.isLt
  rw [encXYN_toNat, fields_op, fields_x, fields_y, fields_n]
  omega

/-! What the sub-key of each family can answer, as the word that the answer encodes to (R74). -/

/-- `i` is an instruction that a word can encode, and its word is `w`. -/
def Instr.HasWord (i : Instr) (w : Word) : Prop := i.WellFormed ∧ encode i = w

theorem dispatch0_hasWord (nnn : Addr12) (i : Instr) (h : dispatch0 nnn = some i) : i.HasWord (encNNN 0x0 nnn) := by
  unfold dispatch0 at h
  split_ifs at h with h1 h2 <;> cases h
  · exact ⟨rfl, by rw [h1]; rfl⟩
  · exact ⟨rfl, by rw [h2]; rfl⟩

/-- Under strict decode the families 5 and 9 answer only `n = 0`, and then their one member (R76). -/
theorem dispatchXY0_cases (n : Fin 16) (i j : Instr) (h : dispatchXY0 true n i = some j) : n.val = 0 ∧ j = i := by
  unfold dispatchXY0 at h
  split_ifs at h with hn
  simp_all

/-- Family 8 answers a shift, which drops `y`, or an instruction whose word has all the fields (R79). -/
theorem dispatch8_cases (x y : Reg) (n : Fin 16) (i : Instr) (h : dispatch8 x y n = some i) :
    i.HasWord (encXYN 0x8 x y n.val) ∨ (n.val = 0x6 ∧ i = .shr x) ∨ (n.val = 0xE ∧ i = .shl x) := by
  unfold dispatch8 at h
  split at h <;> cases h
  case h_7 hn => exact .inr (.inl ⟨hn, rfl⟩)
  case h_9 hn => exact .inr (.inr ⟨hn, rfl⟩)
  all_goals
    rename_i hn
    exact .inl ⟨rfl, by rw [hn]; rfl⟩

theorem dispatchE_hasWord (x : Reg) (kk : Byte) (i : Instr) (h : dispatchE x kk = some i) :
    i.HasWord (encXKK 0xE x kk) := by
  unfold dispatchE at h
  split_ifs at h with h1 h2 <;> cases h
  · exact ⟨rfl, by rw [h1]; rfl⟩
  · exact ⟨rfl, by rw [h2]; rfl⟩

theorem dispatchF_hasWord (x : Reg) (kk : Byte) (i : Instr) (h : dispatchF x kk = some i) :
    i.HasWord (encXKK 0xF x kk) := by
  unfold dispatchF at h
  split_ifs at h <;> cases h
  all_goals
    rename_i hk
    exact ⟨rfl, by rw [hk]; rfl⟩

/-! The decoder read backwards. -/

/-- The decoder answers an instruction only where the dispatch does. -/
theorem dispatch_of_decode (w : Word) (i : Instr) (h : decode w = .ok i) : dispatch true (fields w) = some i := by
  simp only [decode, decodeWith, Config.strictDecode] at h
  split at h
  · next hd => cases h; exact hd
  · cases h

/-- A decoded word is the word of its instruction, or one of the 16 words of a shift (R79). -/
theorem decode_cases (w : Word) (i : Instr) (h : decode w = .ok i) :
    i.HasWord w ∨ (∃ x y, i = .shr x ∧ w = encXYN 0x8 x y 0x6) ∨ (∃ x y, i = .shl x ∧ w = encXYN 0x8 x y 0xE) := by
  have hd := dispatch_of_decode w i h
  have hNNN := encNNN_fields w
  have hXKK := encXKK_fields w
  have hXYN := encXYN_fields w
  unfold dispatch at hd
  split at hd
  case h_1 h0 => rw [h0] at hNNN; exact .inl (hNNN ▸ dispatch0_hasWord _ _ hd)
  -- The families 1, 2, A, B have format NNN, and 3, 4, 6, 7, C have format XKK.
  case h_2 hk | h_3 hk | h_11 hk | h_12 hk => cases hd; rw [hk] at hNNN; exact .inl ⟨rfl, hNNN⟩
  case h_4 hk | h_5 hk | h_7 hk | h_8 hk | h_13 hk => cases hd; rw [hk] at hXKK; exact .inl ⟨rfl, hXKK⟩
  -- The families 5 and 9.
  case h_6 hk | h_10 hk =>
    obtain ⟨hn, rfl⟩ := dispatchXY0_cases _ _ _ hd
    rw [hk, hn] at hXYN
    exact .inl ⟨rfl, hXYN⟩
  case h_9 h8 =>
    rw [h8] at hXYN
    rcases dispatch8_cases _ _ _ _ hd with hi | ⟨hn, rfl⟩ | ⟨hn, rfl⟩
    · exact .inl (hXYN ▸ hi)
    · exact .inr (.inl ⟨_, _, rfl, by rw [← hn, hXYN]⟩)
    · exact .inr (.inr ⟨_, _, rfl, by rw [← hn, hXYN]⟩)
  case h_14 hD =>
    cases hd
    rw [hD] at hXYN
    exact .inl ⟨decide_eq_true (Nat.le_of_lt_succ (fields w).n.isLt), hXYN⟩
  case h_15 hE => rw [hE] at hXKK; exact .inl (hXKK ▸ dispatchE_hasWord _ _ _ hd)
  case h_16 =>
    have hlt := (fields w).op.isLt
    have hF : (fields w).op.val = 0xF := by grind
    rw [hF] at hXKK
    exact .inl (hXKK ▸ dispatchF_hasWord _ _ _ hd)

end Sys2Proof
end

section
/-! The decoder and the opcode map (R75). -/

namespace Sys2Proof.Machine

open Sys2Proof.Laws

/-! Each row of the map as a mask that fixes the decoding, in the map's order. -/

theorem DecodesAs.cls : DecodesAs 0x00E0 0xFFFF (fun _ => .cls) :=
  decodesAs_FFFF _ _ (by decide)
theorem DecodesAs.ret : DecodesAs 0x00EE 0xFFFF (fun _ => .ret) :=
  decodesAs_FFFF _ _ (by decide)
theorem DecodesAs.jp : DecodesAs 0x1000 0xF000 (fun f => .jp f.nnn) :=
  decodesAs_F000 _ 0x1 _ rfl fun f hop => by simp [dispatch, hop]
theorem DecodesAs.call : DecodesAs 0x2000 0xF000 (fun f => .call f.nnn) :=
  decodesAs_F000 _ 0x2 _ rfl fun f hop => by simp [dispatch, hop]
theorem DecodesAs.seImm : DecodesAs 0x3000 0xF000 (fun f => .seImm f.x f.kk) :=
  decodesAs_F000 _ 0x3 _ rfl fun f hop => by simp [dispatch, hop]
theorem DecodesAs.sneImm : DecodesAs 0x4000 0xF000 (fun f => .sneImm f.x f.kk) :=
  decodesAs_F000 _ 0x4 _ rfl fun f hop => by simp [dispatch, hop]
theorem DecodesAs.seReg : DecodesAs 0x5000 0xF00F (fun f => .seReg f.x f.y) :=
  decodesAs_F00F _ 0x5 0x0 _ (by decide) rfl fun f hop hn => by simp [dispatch, dispatchXY0, hop, Fin.ext_iff, hn]
theorem DecodesAs.ldImm : DecodesAs 0x6000 0xF000 (fun f => .ldImm f.x f.kk) :=
  decodesAs_F000 _ 0x6 _ rfl fun f hop => by simp [dispatch, hop]
theorem DecodesAs.addImm : DecodesAs 0x7000 0xF000 (fun f => .addImm f.x f.kk) :=
  decodesAs_F000 _ 0x7 _ rfl fun f hop => by simp [dispatch, hop]
theorem DecodesAs.ldReg : DecodesAs 0x8000 0xF00F (fun f => .ldReg f.x f.y) :=
  decodesAs_F00F _ 0x8 0x0 _ (by decide) rfl fun f hop hn => by simp [dispatch, dispatch8, hop, hn]
theorem DecodesAs.orReg : DecodesAs 0x8001 0xF00F (fun f => .orReg f.x f.y) :=
  decodesAs_F00F _ 0x8 0x1 _ (by decide) rfl fun f hop hn => by simp [dispatch, dispatch8, hop, hn]
theorem DecodesAs.andReg : DecodesAs 0x8002 0xF00F (fun f => .andReg f.x f.y) :=
  decodesAs_F00F _ 0x8 0x2 _ (by decide) rfl fun f hop hn => by simp [dispatch, dispatch8, hop, hn]
theorem DecodesAs.xorReg : DecodesAs 0x8003 0xF00F (fun f => .xorReg f.x f.y) :=
  decodesAs_F00F _ 0x8 0x3 _ (by decide) rfl fun f hop hn => by simp [dispatch, dispatch8, hop, hn]
theorem DecodesAs.addReg : DecodesAs 0x8004 0xF00F (fun f => .addReg f.x f.y) :=
  decodesAs_F00F _ 0x8 0x4 _ (by decide) rfl fun f hop hn => by simp [dispatch, dispatch8, hop, hn]
theorem DecodesAs.subReg : DecodesAs 0x8005 0xF00F (fun f => .subReg f.x f.y) :=
  decodesAs_F00F _ 0x8 0x5 _ (by decide) rfl fun f hop hn => by simp [dispatch, dispatch8, hop, hn]
theorem DecodesAs.shr : DecodesAs 0x8006 0xF00F (fun f => .shr f.x) :=
  decodesAs_F00F _ 0x8 0x6 _ (by decide) rfl fun f hop hn => by simp [dispatch, dispatch8, hop, hn]
theorem DecodesAs.subnReg : DecodesAs 0x8007 0xF00F (fun f => .subnReg f.x f.y) :=
  decodesAs_F00F _ 0x8 0x7 _ (by decide) rfl fun f hop hn => by simp [dispatch, dispatch8, hop, hn]
theorem DecodesAs.shl : DecodesAs 0x800E 0xF00F (fun f => .shl f.x) :=
  decodesAs_F00F _ 0x8 0xE _ (by decide) rfl fun f hop hn => by simp [dispatch, dispatch8, hop, hn]
theorem DecodesAs.sneReg : DecodesAs 0x9000 0xF00F (fun f => .sneReg f.x f.y) :=
  decodesAs_F00F _ 0x9 0x0 _ (by decide) rfl fun f hop hn => by simp [dispatch, dispatchXY0, hop, Fin.ext_iff, hn]
theorem DecodesAs.ldI : DecodesAs 0xA000 0xF000 (fun f => .ldI f.nnn) :=
  decodesAs_F000 _ 0xA _ rfl fun f hop => by simp [dispatch, hop]
theorem DecodesAs.jpV0 : DecodesAs 0xB000 0xF000 (fun f => .jpV0 f.nnn) :=
  decodesAs_F000 _ 0xB _ rfl fun f hop => by simp [dispatch, hop]
theorem DecodesAs.rnd : DecodesAs 0xC000 0xF000 (fun f => .rnd f.x f.kk) :=
  decodesAs_F000 _ 0xC _ rfl fun f hop => by simp [dispatch, hop]
theorem DecodesAs.drw : DecodesAs 0xD000 0xF000 (fun f => .drw f.x f.y f.n.val) :=
  decodesAs_F000 _ 0xD _ rfl fun f hop => by simp [dispatch, hop]
theorem DecodesAs.skp : DecodesAs 0xE09E 0xF0FF (fun f => .skp f.x) :=
  decodesAs_F0FF _ 0xE 0x9E _ rfl fun f hop hkk => by simp [dispatch, dispatchE, hop, hkk]
theorem DecodesAs.sknp : DecodesAs 0xE0A1 0xF0FF (fun f => .sknp f.x) :=
  decodesAs_F0FF _ 0xE 0xA1 _ rfl fun f hop hkk => by simp [dispatch, dispatchE, hop, hkk]
theorem DecodesAs.ldVxDT : DecodesAs 0xF007 0xF0FF (fun f => .ldVxDT f.x) :=
  decodesAs_F0FF _ 0xF 0x07 _ rfl fun f hop hkk => by simp [dispatch, dispatchF, hop, hkk]
theorem DecodesAs.ldVxK : DecodesAs 0xF00A 0xF0FF (fun f => .ldVxK f.x) :=
  decodesAs_F0FF _ 0xF 0x0A _ rfl fun f hop hkk => by simp [dispatch, dispatchF, hop, hkk]
theorem DecodesAs.ldDTVx : DecodesAs 0xF015 0xF0FF (fun f => .ldDTVx f.x) :=
  decodesAs_F0FF _ 0xF 0x15 _ rfl fun f hop hkk => by simp [dispatch, dispatchF, hop, hkk]
theorem DecodesAs.ldSTVx : DecodesAs 0xF018 0xF0FF (fun f => .ldSTVx f.x) :=
  decodesAs_F0FF _ 0xF 0x18 _ rfl fun f hop hkk => by simp [dispatch, dispatchF, hop, hkk]
theorem DecodesAs.addI : DecodesAs 0xF01E 0xF0FF (fun f => .addI f.x) :=
  decodesAs_F0FF _ 0xF 0x1E _ rfl fun f hop hkk => by simp [dispatch, dispatchF, hop, hkk]
theorem DecodesAs.ldF : DecodesAs 0xF029 0xF0FF (fun f => .ldF f.x) :=
  decodesAs_F0FF _ 0xF 0x29 _ rfl fun f hop hkk => by simp [dispatch, dispatchF, hop, hkk]

/-- The words that select a row decode to the row's instruction, made of the fields of the word. -/
def RowDecodes (r : OpcodeRow) : Prop :=
  ∃ ofFields : Fields → Instr, DecodesAs r.matchBits r.mask ofFields ∧ ∀ f, (ofFields f).mnemonic = r.mnemonic

theorem opcodeRowsA_decode : ∀ r ∈ opcodeRowsA, RowDecodes r := by
  simp only [opcodeRowsA, List.forall_mem_cons]
  exact
    ⟨⟨_, .cls, fun _ => rfl⟩, ⟨_, .ret, fun _ => rfl⟩, ⟨_, .jp, fun _ => rfl⟩, ⟨_, .call, fun _ => rfl⟩,
     ⟨_, .seImm, fun _ => rfl⟩, ⟨_, .sneImm, fun _ => rfl⟩, ⟨_, .seReg, fun _ => rfl⟩, ⟨_, .ldImm, fun _ => rfl⟩,
     ⟨_, .addImm, fun _ => rfl⟩,
     List.forall_mem_nil _⟩

theorem opcodeRowsB_decode : ∀ r ∈ opcodeRowsB, RowDecodes r := by
  simp only [opcodeRowsB, List.forall_mem_cons]
  exact
    ⟨⟨_, .ldReg, fun _ => rfl⟩, ⟨_, .orReg, fun _ => rfl⟩, ⟨_, .andReg, fun _ => rfl⟩, ⟨_, .xorReg, fun _ => rfl⟩,
     ⟨_, .addReg, fun _ => rfl⟩, ⟨_, .subReg, fun _ => rfl⟩, ⟨_, .shr, fun _ => rfl⟩, ⟨_, .subnReg, fun _ => rfl⟩,
     ⟨_, .shl, fun _ => rfl⟩,
     List.forall_mem_nil _⟩

theorem opcodeRowsC_decode : ∀ r ∈ opcodeRowsC, RowDecodes r := by
  simp only [opcodeRowsC, List.forall_mem_cons]
  exact
    ⟨⟨_, .sneReg, fun _ => rfl⟩, ⟨_, .ldI, fun _ => rfl⟩, ⟨_, .jpV0, fun _ => rfl⟩, ⟨_, .rnd, fun _ => rfl⟩,
     ⟨_, .drw, fun _ => rfl⟩, ⟨_, .skp, fun _ => rfl⟩, ⟨_, .sknp, fun _ => rfl⟩, ⟨_, .ldVxDT, fun _ => rfl⟩,
     ⟨_, .ldVxK, fun _ => rfl⟩, ⟨_, .ldDTVx, fun _ => rfl⟩, ⟨_, .ldSTVx, fun _ => rfl⟩, ⟨_, .addI, fun _ => rfl⟩,
     ⟨_, .ldF, fun _ => rfl⟩,
     List.forall_mem_nil _⟩

theorem opcodeMap_decodes (r : OpcodeRow) (hr : r ∈ opcodeMap) : RowDecodes r := by
  simp only [opcodeMap, List.mem_append] at hr
  rcases hr with (hr | hr) | hr
  · exact opcodeRowsA_decode r hr
  · exact opcodeRowsB_decode r hr
  · exact opcodeRowsC_decode r hr

/-- A word that selects a row decodes to an instruction of that row. -/
theorem decode_of_selects (w : Word) (r : OpcodeRow) (hr : r ∈ opcodeMap) (hw : r.selects w = true) :
    ∃ i, decode w = .ok i ∧ i.mnemonic = r.mnemonic := by
  obtain ⟨ofFields, hdec, hmn⟩ := opcodeMap_decodes r hr
  exact ⟨ofFields (fields w), hdec w (by simpa [OpcodeRow.selects] using hw), hmn _⟩

theorem opcodeMap_mnemonics_nodup : (opcodeMap.map OpcodeRow.mnemonic).Nodup := by decide

/-- No word selects two rows: it decodes to one instruction, whose mnemonic is the mnemonic of one row only. -/
theorem row_unique (w : Word) (r q : OpcodeRow) (hr : r ∈ opcodeMap) (hq : q ∈ opcodeMap)
    (hrw : r.selects w = true) (hqw : q.selects w = true) : r = q := by
  obtain ⟨i, hi, hir⟩ := decode_of_selects w r hr hrw
  obtain ⟨j, hj, hjq⟩ := decode_of_selects w q hq hqw
  have hij : i = j := by rw [hi] at hj; cases hj; rfl
  exact List.inj_on_of_nodup_map opcodeMap_mnemonics_nodup hr hq (by rw [← hir, hij, hjq])

/-- The word of every well-formed instruction selects the instruction's row. -/
theorem encode_selects_row : ∀ i : Instr, EncodeSelectsRow.Statement i
  | .cls => EncodeSelectsRow.cls
  | .ret => EncodeSelectsRow.ret
  | .jp nnn => EncodeSelectsRow.jp nnn
  | .call nnn => EncodeSelectsRow.call nnn
  | .seImm x kk => EncodeSelectsRow.seImm x kk
  | .sneImm x kk => EncodeSelectsRow.sneImm x kk
  | .seReg x y => EncodeSelectsRow.seReg x y
  | .ldImm x kk => EncodeSelectsRow.ldImm x kk
  | .addImm x kk => EncodeSelectsRow.addImm x kk
  | .ldReg x y => EncodeSelectsRow.ldReg x y
  | .orReg x y => EncodeSelectsRow.orReg x y
  | .andReg x y => EncodeSelectsRow.andReg x y
  | .xorReg x y => EncodeSelectsRow.xorReg x y
  | .addReg x y => EncodeSelectsRow.addReg x y
  | .subReg x y => EncodeSelectsRow.subReg x y
  | .shr x => EncodeSelectsRow.shr x
  | .subnReg x y => EncodeSelectsRow.subnReg x y
  | .shl x => EncodeSelectsRow.shl x
  | .sneReg x y => EncodeSelectsRow.sneReg x y
  | .ldI nnn => EncodeSelectsRow.ldI nnn
  | .jpV0 nnn => EncodeSelectsRow.jpV0 nnn
  | .rnd x kk => EncodeSelectsRow.rnd x kk
  | .drw x y n => EncodeSelectsRow.drw x y n
  | .skp x => EncodeSelectsRow.skp x
  | .sknp x => EncodeSelectsRow.sknp x
  | .ldVxDT x => EncodeSelectsRow.ldVxDT x
  | .ldVxK x => EncodeSelectsRow.ldVxK x
  | .ldDTVx x => EncodeSelectsRow.ldDTVx x
  | .ldSTVx x => EncodeSelectsRow.ldSTVx x
  | .addI x => EncodeSelectsRow.addI x
  | .ldF x => EncodeSelectsRow.ldF x

/-- A word that decodes selects the row of the instruction it decodes to. -/
theorem selects_of_decode (w : Word) (i : Instr) (h : decode w = .ok i) :
    ∃ r, r ∈ opcodeMap ∧ r.mnemonic = i.mnemonic ∧ r.selects w = true := by
  rcases decode_cases w i h with ⟨hwf, rfl⟩ | ⟨x, y, rfl, rfl⟩ | ⟨x, y, rfl, rfl⟩
  · exact encode_selects_row i hwf
  · exact ⟨⟨"SHR_Vx", 0x8006, 0xF00F⟩, by decide, rfl, selects_XY _ _ _ _ _ _ rfl⟩
  · exact ⟨⟨"SHL_Vx", 0x800E, 0xF00F⟩, by decide, rfl, selects_XY _ _ _ _ _ _ rfl⟩

end Sys2Proof.Machine
end

section
/-! The obligations of the family 30_encoding.md. -/

namespace Sys2Proof.Proofs

open Sys2Proof.Machine

/-- Settles O3, field by field. -/
theorem fieldsOfAWord : Obligations.FieldsOfAWord := fun w =>
  ⟨fields_op_eq_shift w, fields_x_eq_shift_and w, fields_y_eq_shift_and w,
   by rw [fields_n, and_0xF], by rw [fields_kk, and_0xFF], by rw [fields_nnn, and_0xFFF],
   fields_kk_eq_y_n w, fields_nnn_eq_x_kk w⟩

/-- Settles O4: rows fix the decoding by their masks, decoded words encode back, and mnemonics name rows uniquely. -/
theorem decoderFollowsTheOpcodeMap : Obligations.DecoderFollowsTheOpcodeMap :=
  ⟨rfl, row_unique, selects_of_decode, decode_of_selects⟩

/-- Settles O6: the shifts by the fields of their words, the rest by reading the word back from its fields. -/
theorem onlyTheShiftsIgnoreAField : Obligations.OnlyTheShiftsIgnoreAField := by
  refine ⟨fun x y => ?shr, fun x y => ?shl, fun w i hdec hshr hshl => ?back⟩
  case shr =>
    obtain ⟨hop, hx, -, hn⟩ := fields_encXYN 0x8 x y 0x6
    exact decode_of_dispatch _ _ (by simp [dispatch, dispatch8, hop, hx, hn])
  case shl =>
    obtain ⟨hop, hx, -, hn⟩ := fields_encXYN 0x8 x y 0xE
    exact decode_of_dispatch _ _ (by simp [dispatch, dispatch8, hop, hx, hn])
  case back =>
    rcases decode_cases w i hdec with ⟨-, hw⟩ | ⟨x, -, hi, -⟩ | ⟨x, -, hi, -⟩
    · exact hw
    · exact absurd hi (hshr x)
    · exact absurd hi (hshl x)

end Sys2Proof.Proofs
end

section
/-! The obligations of the family 40_decode_dispatch.md. -/

namespace Sys2Proof.Proofs

open Sys2Proof.Machine

/-- Settles O8, by the two answers a fetch can give; their ranges of pc exclude each other. -/
theorem fetchReadsTheWordAtPc : Obligations.FetchReadsTheWordAtPc := by
  intro s
  rcases s.fetch_cases with ⟨hpc, hok⟩ | ⟨hpc, herr⟩
  · exact ⟨fun _ => ⟨_, hok, wordOfBytes_toNat _ _⟩, fun hout => by omega⟩
  · exact ⟨fun hin => by omega, fun _ => herr⟩

end Sys2Proof.Proofs
end

section
/-! The frames of a jump and of a return, and the return from a stack of known depth (41_control_flow.md). -/

namespace Sys2Proof.Machine

/-- A jump writes pc only (40_decode_dispatch.md R95). -/
theorem State.jump_frame (s : State) (a : Word) : s.changesOnly (s.jump a) [] [.pc] :=
  State.changesOnly_of_v _ _ _ rfl fun p hp => by cases p <;> simp_all [State.sameIn]

/-- A byte plus an address is at most 0x10FE, so the target of BNNN is their exact sum (41_control_flow.md R115). -/
theorem byte_add_addr_toNat (b : Byte) (nnn : Addr12) :
    (BitVec.ofNat 16 (b.toNat + nnn.toNat)).toNat = b.toNat + nnn.toNat := by
  have hb := b.isLt
  have hn := nnn.isLt
  rw [BitVec.toNat_ofNat, Nat.mod_eq_of_lt (by omega)]

/-- Changing the depth of the stack, jumping and advancing: what a return that raises nothing does. -/
theorem State.unwind_frame (s : State) (n : Fin (Config.stackDepth + 1)) (a : Word) :
    s.changesOnly ({ s with sp := n }.jump a).advanceOne [] [.pc, .stack] :=
  State.changesOnly_of_v _ _ _ rfl fun p hp => by cases p <;> simp_all [State.sameIn]

/-- A pop from `j + 1` live entries answers entry `j` and leaves `j` of them (R111). -/
theorem State.pop_of_depth (s : State) (j : Nat) (h : j < Config.stackDepth) (hsp : s.sp.val = j + 1) :
    s.pop = .ok (s.stk[j]'h, { s with sp := ⟨j, Nat.lt_succ_of_lt h⟩ }) := by
  obtain rfl : j = s.sp.val - 1 := by omega
  rcases s.pop_cases with ⟨_, _, hpop⟩ | ⟨hzero, _⟩
  · exact hpop
  · omega

/-- A pop from an empty stack raises StackUnderflow (R111). -/
theorem State.pop_of_empty (s : State) (hsp : s.sp.val = 0) : s.pop = .error .stackUnderflow := by
  rcases s.pop_cases with ⟨hpos, _⟩ | ⟨_, hpop⟩
  · omega
  · exact hpop

end Sys2Proof.Machine
end

section
/-! The obligations of the family 41_control_flow.md. -/

namespace Sys2Proof.Proofs

open Sys2Proof.Machine

/-- Settles O26, by what a pop answers at each depth of the stack. -/
theorem returnResumesAfterTheCall : Obligations.ReturnResumesAfterTheCall := by
  refine ⟨DecodesAs.ret, fun s => ⟨fun j hj hsp => ?live, fun hsp => ?empty⟩⟩
  case live =>
    exact ⟨_, exec_ret_of_pop _ _ _ (s.pop_of_depth j hj hsp), rfl, rfl, fun _ _ _ => rfl, s.unwind_frame _ _⟩
  case empty =>
    exact ⟨_, exec_ret_of_underflow _ _ (s.pop_of_empty hsp), rfl, rfl, rfl⟩

/-- Settles O28: the sum fits 16 bits, so writing it to pc loses nothing. -/
theorem jumpV0AddsWithoutReduction : Obligations.JumpV0AddsWithoutReduction :=
  ⟨DecodesAs.jpV0, fun nnn s => ⟨_, rfl, byte_add_addr_toNat _ nnn, s.jump_frame _⟩⟩

/-- Settles O29: both skips end in `skipIf`, under opposite conditions. -/
theorem skipsOnAnImmediate : Obligations.SkipsOnAnImmediate := by
  refine ⟨DecodesAs.seImm, DecodesAs.sneImm, fun x kk s =>
    ⟨⟨_, rfl, ?eqPc, s.skipIf_frame _⟩, ⟨_, rfl, ?nePc, s.skipIf_frame _⟩⟩⟩
  case eqPc => simp only [State.skipIf_pc, decide_eq_true_eq]
  case nePc => simp only [State.skipIf_pc, decide_eq_true_eq, ne_eq, ite_not]

/-- Settles O24: an address is zero-extended on its way to pc. -/
theorem jumpIsAbsolute : Obligations.JumpIsAbsolute :=
  ⟨DecodesAs.jp, fun nnn s => ⟨_, rfl, zext16_toNat nnn, s.jump_frame _⟩⟩

end Sys2Proof.Proofs
end

section
/-! The ALU: what the flags and the wrapped results are as numbers, the answer of a subtraction, and the frame of an
instruction that draws a random byte (42_alu.md). -/

namespace Sys2Proof.Machine

/-! Flags as numbers. -/

theorem flagByte_decide_toNat (p : Prop) [Decidable p] : (flagByte (decide p)).toNat = if p then 1 else 0 := by
  by_cases h : p <;> simp [flagByte, h]

/-- The carry of 8XY4 as a number (42_alu.md R137). -/
theorem flagByte_carryOut_toNat (a b : Byte) :
    (flagByte (carryOut a b)).toNat = if 255 < a.toNat + b.toNat then 1 else 0 :=
  flagByte_decide_toNat _

/-- No borrow means that the difference of the integers is not negative (42_alu.md R138, R140). -/
theorem flagByte_noBorrow_toNat (a b : Byte) :
    (flagByte (noBorrow a b)).toNat = if (0 : Int) ≤ (a.toNat : Int) - (b.toNat : Int) then 1 else 0 := by
  have hle : b.toNat ≤ a.toNat ↔ (0 : Int) ≤ (a.toNat : Int) - (b.toNat : Int) := by omega
  simp only [noBorrow, flagByte_decide_toNat, hle]

/-- A difference of bytes is the difference of the integers modulo 256 (42_alu.md R138, R140). -/
theorem byte_sub_toNat_eq_emod (a b : Byte) :
    ((a - b).toNat : Int) = ((a.toNat : Int) - (b.toNat : Int)) % 256 := by
  have ha := a.isLt
  have hb := b.isLt
  rw [BitVec.toNat_sub]
  omega

/-! What the flag writers answer. -/

/-- The answer of 8XY4: the carry is written last, so it stands in VF (42_alu.md R137). -/
theorem State.add_answer (s : State) (x : Reg) (a b : Byte) (t : State)
    (ht : t = (s.resultThenFlag x (a + b) (carryOut a b)).advanceOne) :
    (t.getV VF).toNat = (if 255 < a.toNat + b.toNat then 1 else 0) ∧
    (x ≠ VF → (t.getV x).toNat = (a.toNat + b.toNat) % 256) ∧ t.pc = s.pc + 2 ∧ s.changesOnly t [x, VF] [.pc] := by
  subst ht
  refine ⟨?flag, fun hx => ?sum, s.flagWrite_frame _ x _ _ (.inl rfl)⟩
  case flag =>
    rw [State.getV_advanceOne, State.getV_resultThenFlag, if_pos rfl, flagByte_carryOut_toNat]
  case sum =>
    rw [State.getV_advanceOne, State.getV_resultThenFlag, if_neg hx, if_pos rfl, BitVec.toNat_add]

/-- The answer of a subtraction `a - b` into V[x], in whichever order its operands stand: the result is written last,
so it stands in V[x] (42_alu.md R138, R140). -/
theorem State.subtract_answer (s : State) (x : Reg) (a b : Byte) (t : State)
    (ht : t = (s.flagThenResult x (a - b) (noBorrow a b)).advanceOne) :
    ((t.getV x).toNat : Int) = ((a.toNat : Int) - (b.toNat : Int)) % 256 ∧
    (x ≠ VF → (t.getV VF).toNat = (if (0 : Int) ≤ (a.toNat : Int) - (b.toNat : Int) then 1 else 0)) ∧
    t.pc = s.pc + 2 ∧ s.changesOnly t [x, VF] [.pc] := by
  subst ht
  refine ⟨?difference, fun hx => ?flag, s.flagWrite_frame _ x _ _ (.inr rfl)⟩
  case difference =>
    rw [State.getV_advanceOne, State.getV_flagThenResult, if_pos rfl, byte_sub_toNat_eq_emod]
  case flag =>
    rw [State.getV_advanceOne, State.getV_flagThenResult, if_neg hx.symm, if_pos rfl, flagByte_noBorrow_toNat]

/-! Frames. -/

theorem State.sameIn_trans (s t u : State) (p : Part) (hst : s.sameIn t p) (htu : t.sameIn u p) : s.sameIn u p := by
  cases p <;> simp_all [State.sameIn]

/-- Two changes one after the other change no more than both together. -/
theorem State.changesOnly_append {s t u : State} {r r' : List Reg} {l l' : List Part} (hst : s.changesOnly t r l)
    (htu : t.changesOnly u r' l') : s.changesOnly u (r ++ r') (l ++ l') := by
  obtain ⟨hregs, hparts⟩ := hst
  obtain ⟨hregs', hparts'⟩ := htu
  refine ⟨fun q hq => ?_, fun p hp => ?_⟩
  · rw [List.mem_append, not_or] at hq
    exact (hregs' q hq.2).trans (hregs q hq.1)
  · rw [List.mem_append, not_or] at hp
    exact s.sameIn_trans t u p (hparts p hp.1) (hparts' p hp.2)

/-- A draw of `rnd` advances the model's own counter only (42_alu.md R145). -/
theorem State.drawRnd_frame (s : State) : s.changesOnly s.drawRnd [] [.rndDraws] :=
  State.changesOnly_of_v _ _ _ rfl fun p hp => by cases p <;> simp_all [State.sameIn]

/-- No bit outside a mask is set in what it masks (42_alu.md R142). -/
theorem masked_and_not_mask (kk b : Byte) : kk &&& b &&& ~~~kk = 0 := by
  rw [BitVec.and_comm kk b, BitVec.and_assoc, BitVec.and_not_self]
  exact BitVec.and_zero

end Sys2Proof.Machine
end

section
/-! The obligations of the family 42_alu.md on moves, sums, differences, logic and the random byte. -/

namespace Sys2Proof.Proofs

open Sys2Proof.Machine

/-- Settles O32: a sum of bytes is the sum modulo 256. -/
theorem addImmediateWrapsWithoutFlag : Obligations.AddImmediateWrapsWithoutFlag := by
  refine ⟨DecodesAs.addImm, fun x kk s => ⟨_, rfl, ?_⟩⟩
  obtain ⟨hget, hpc, hframe⟩ := s.setV_advanceOne_frame x (s.getV x + kk)
  exact ⟨by rw [hget, BitVec.toNat_add], hpc, hframe⟩

/-- Settles O34: the register written holds the bitwise operation, and a bit of that is the operation of the bits. -/
theorem bitwiseOperationsLeaveVF : Obligations.BitwiseOperationsLeaveVF := by
  refine ⟨DecodesAs.orReg, DecodesAs.andReg, DecodesAs.xorReg, fun x y s =>
    ⟨⟨_, rfl, fun b => ?or, (s.setV_advanceOne_frame x _).2⟩, ⟨_, rfl, fun b => ?and, (s.setV_advanceOne_frame x _).2⟩,
     ⟨_, rfl, fun b => ?xor, (s.setV_advanceOne_frame x _).2⟩⟩⟩
  case or => rw [State.getV_advanceOne, State.getV_setV_same, BitVec.getLsbD_or]
  case and => rw [State.getV_advanceOne, State.getV_setV_same, BitVec.getLsbD_and]
  case xor => rw [State.getV_advanceOne, State.getV_setV_same, BitVec.getLsbD_xor]

/-- Settles O35, by the answer of an addition. -/
theorem addSetsCarryLast : Obligations.AddSetsCarryLast :=
  ⟨DecodesAs.addReg, fun x _ s => ⟨_, rfl, s.add_answer x _ _ _ rfl⟩⟩

/-- Settles O36, by the answer of a subtraction. -/
theorem subtractSetsNoBorrowFirst : Obligations.SubtractSetsNoBorrowFirst :=
  ⟨DecodesAs.subReg, fun x _ s => ⟨_, rfl, s.subtract_answer x _ _ _ rfl⟩⟩

/-- Settles O37, by the answer of a subtraction with its operands exchanged. -/
theorem reverseSubtractSetsNoBorrowFirst : Obligations.ReverseSubtractSetsNoBorrowFirst :=
  ⟨DecodesAs.subnReg, fun x _ s => ⟨_, rfl, s.subtract_answer x _ _ _ rfl⟩⟩

/-- Settles O40: the draw and then the write of a register, whose frames add up. -/
theorem randomByteIsMasked : Obligations.RandomByteIsMasked := by
  refine ⟨DecodesAs.rnd, fun x kk s => ⟨_, rfl, ?_⟩⟩
  obtain ⟨hget, hpc, hframe⟩ := s.drawRnd.setV_advanceOne_frame x (kk &&& s.rndByte)
  refine ⟨hget, ?outside, hpc, ?frame⟩
  case outside => rw [hget, masked_and_not_mask]
  case frame =>
    exact State.changesOnly_mono _ _ _ _ _ _ (State.changesOnly_append s.drawRnd_frame hframe) (by simp) (by simp)

/-- Settles O31: one register is written. -/
theorem loadImmediate : Obligations.LoadImmediate :=
  ⟨DecodesAs.ldImm, fun x kk s => ⟨_, rfl, s.setV_advanceOne_frame x kk⟩⟩

/-- Settles O33: one register is written, with the pre-state value of the other. -/
theorem copyRegister : Obligations.CopyRegister :=
  ⟨DecodesAs.ldReg, fun x y s => ⟨_, rfl, s.setV_advanceOne_frame x (s.getV y)⟩⟩

end Sys2Proof.Proofs
end

section
/-! The index register, the timers and the Step that ends in the tick: frames, the sum of FX1E, the output pulse, and
the Step of an instruction that raises no fault (43_index_timers.md sections 1 to 3, 40_decode_dispatch.md R96). -/

namespace Sys2Proof.Machine

variable (s : State)

/-! Frames of the instructions that write one register outside V and advance. -/

theorem State.setI_advanceOne_frame (a : Word) : s.changesOnly { s with i := a }.advanceOne [] [.pc, .i] :=
  State.changesOnly_of_v _ _ _ rfl fun p hp => by cases p <;> simp_all [State.sameIn]

theorem State.setDT_advanceOne_frame (b : Byte) : s.changesOnly { s with dt := b }.advanceOne [] [.pc, .dt] :=
  State.changesOnly_of_v _ _ _ rfl fun p hp => by cases p <;> simp_all [State.sameIn]

theorem State.setST_advanceOne_frame (b : Byte) : s.changesOnly { s with st := b }.advanceOne [] [.pc, .st] :=
  State.changesOnly_of_v _ _ _ rfl fun p hp => by cases p <;> simp_all [State.sameIn]

/-- A value reduced modulo 4096 fits the index register as it is (43_index_timers.md R161). -/
theorem word_mod_4096_toNat (n : Nat) : (BitVec.ofNat 16 (n % 4096)).toNat = n % 4096 := by
  rw [BitVec.toNat_ofNat]
  omega

/-! The tick. -/

/-- The tick pulses exactly when it takes ST from 1 to 0 (43_index_timers.md R166). -/
theorem State.tickTimers_toneEnd_iff : s.tickTimers.toneEnd = true ↔ s.st.toNat = 1 := by
  rw [State.tickTimers_toneEnd, decide_eq_true_eq, BitVec.toNat_eq]
  rfl

/-! The Step around the instruction. -/

/-- The end of a Step neither halts the core nor releases it. -/
@[simp] theorem State.halted_endStep : s.endStep.halted = s.halted := by
  cases h : s.halted with
  | false => rw [State.endStep_running s h, State.tickTimers_halted, h]
  | true => rw [State.endStep_halted s h, h]

/-- A Step whose instruction leaves the core running is the instruction and then the tick (R96). -/
theorem step_of_exec {s t : State} {i : Instr} (hi : s.NextInstr i) (hexec : exec i s = .next t)
    (ht : t.halted = false) : step s = .next t.tickTimers := by
  rw [step, executeInstruction_of_next s i hi, hexec, finish_next, State.endStep_running t ht]

/-- A Step that ends with the core running ends in the tick of what its ExecuteInstruction left (R96). -/
theorem executeInstruction_of_step_running {s t : State} (hstep : step s = .next t) (ht : t.halted = false) :
    ∃ u, executeInstruction s = .next u ∧ t = u.tickTimers := by
  obtain ⟨u, hu, rfl⟩ := finish_cases _ _ hstep
  rw [State.halted_endStep] at ht
  exact ⟨u, hu, State.endStep_running u ht⟩

end Sys2Proof.Machine
end

section
/-! The obligations of the family 43_index_timers.md on I, DT, ST and the tick. -/

namespace Sys2Proof.Proofs

open Sys2Proof.Machine

/-- Settles O43: the sum is reduced before it is written to I, so writing it loses nothing. -/
theorem addToIndexWrapsAt4096 : Obligations.AddToIndexWrapsAt4096 :=
  ⟨DecodesAs.addI, fun _ s => ⟨_, rfl, word_mod_4096_toNat _, rfl, s.setI_advanceOne_frame _⟩⟩

/-- Settles O45: V[x] is written from the DT that the tick of the same Step then counts down. -/
theorem readDelayTimer : Obligations.ReadDelayTimer := by
  refine ⟨DecodesAs.ldVxDT, fun x s => ⟨_, rfl, s.setV_advanceOne_frame x s.dt⟩, fun x s hi => ?_⟩
  refine ⟨_, step_of_exec hi rfl hi.running, ?read, countDown_toNat _⟩
  case read => rw [State.getV_tickTimers, State.getV_advanceOne, State.getV_setV_same]

/-- Settles O46: the tick counts down, and pulses for, the value that the instruction has just written. -/
theorem setTimers : Obligations.SetTimers := by
  refine ⟨DecodesAs.ldDTVx, DecodesAs.ldSTVx, fun x s => ⟨?dt, ?st⟩, fun x s => ⟨fun hi => ?stepDT, fun hi => ?stepST⟩⟩
  case dt => exact ⟨_, rfl, rfl, rfl, s.setDT_advanceOne_frame _⟩
  case st => exact ⟨_, rfl, rfl, rfl, s.setST_advanceOne_frame _⟩
  case stepDT => exact ⟨_, step_of_exec hi rfl hi.running, countDown_toNat _⟩
  case stepST =>
    exact ⟨_, step_of_exec hi rfl hi.running, countDown_toNat _, State.tickTimers_toneEnd_iff _⟩

/-- Settles O47: both timers are counted down as numbers, and a Step that raises no fault ends in the tick. -/
theorem tickCountsDownToZero : Obligations.TickCountsDownToZero := by
  refine ⟨fun s => ?tick, fun s t _ hstep ht => executeInstruction_of_step_running hstep ht⟩
  have hdt : s.tickTimers.dt.toNat = s.dt.toNat - 1 := countDown_toNat s.dt
  have hst : s.tickTimers.st.toNat = s.st.toNat - 1 := countDown_toNat s.st
  exact ⟨fun _ => hdt, fun _ => by omega, fun _ => hst, fun _ => by omega, s.tickTimers_toneEnd_iff,
    s.tickTimers_frame⟩

/-- Settles O42: an address is zero-extended on its way to I. -/
theorem loadIndex : Obligations.LoadIndex :=
  ⟨DecodesAs.ldI, fun nnn s => ⟨_, rfl, zext16_toNat nnn, rfl, s.setI_advanceOne_frame _⟩⟩

end Sys2Proof.Proofs
end

section
/-! The cleared framebuffer and the frame of 00E0 (44_graphics.md R181, R184). -/

namespace Sys2Proof.Machine

variable (s : State)

@[simp] theorem State.cell_advanceOne (a : Nat) : s.advanceOne.cell a = s.cell a := rfl

/-- After `clear()` every cell is 0, whatever it was before (44_graphics.md R181). -/
@[simp] theorem State.cell_clearFb (a : Nat) : s.clearFb.cell a = false := BitVec.getLsbD_zero

theorem State.clearFb_advanceOne_frame : s.changesOnly s.clearFb.advanceOne [] [.pc, .fb] :=
  State.changesOnly_of_v _ _ _ rfl fun p hp => by cases p <;> simp_all [State.sameIn]

end Sys2Proof.Machine
end

section
/-! The obligation of the family 44_graphics.md on 00E0. -/

namespace Sys2Proof.Proofs

open Sys2Proof.Machine

/-- Settles O49: advancing keeps the cells that `clear()` has set to 0. -/
theorem clearScreen : Obligations.ClearScreen := by
  refine ⟨DecodesAs.cls, fun s => ⟨_, rfl, fun a _ => ?cell, rfl, s.clearFb_advanceOne_frame⟩⟩
  case cell => rw [State.cell_advanceOne, State.cell_clearFb]

end Sys2Proof.Proofs
end

section
/-! The lowest key that is down, as the key that FX0A reads (45_keypad.md R203). -/

namespace Sys2Proof.Machine

/-- The lowest key that is down stands first in `pressedKeys`. -/
theorem State.pressedKeys_of_lowest {s : State} {k : Reg} (hdown : s.keyDown k = true)
    (hlow : ∀ j, j < k → s.keyDown j = false) : ∃ ks, s.pressedKeys = k :: ks := by
  cases e : s.pressedKeys with
  | nil =>
    have hkeys : s.keys = 0 := s.pressedKeys_nil.1 e
    simp [State.keyDown, hkeys] at hdown
  | cons k' ks =>
    obtain ⟨hdown', hlow'⟩ := s.pressedKeys_cons k' ks e
    rcases lt_trichotomy k k' with hlt | rfl | hgt
    · simp [hlow' k hlt] at hdown
    · exact ⟨ks, rfl⟩
    · simp [hlow k' hgt] at hdown'

/-- A key number fits a register as it is (45_keypad.md R203). -/
theorem key_toNat (k : Reg) : (BitVec.ofNat 8 k.val).toNat = k.val := by
  rw [BitVec.toNat_ofNat]
  omega

end Sys2Proof.Machine
end

section
/-! The obligation of the family 45_keypad.md on FX0A. -/

namespace Sys2Proof.Proofs

open Sys2Proof.Machine

/-- Settles O56: with no key down the instruction changes nothing, so its Step is the tick alone; else the first
pressed key is the lowest one. -/
theorem waitForTheLowestKey : Obligations.WaitForTheLowestKey := by
  refine ⟨DecodesAs.ldVxK, fun x s hnone => ?blocked, fun x s k hdown hlow => ?pressed, fun x s hi hnone => ?blockedStep⟩
  case blocked => exact exec_ldVxK_of_nil x s (s.pressedKeys_nil.2 hnone)
  case pressed =>
    have hk : k < 16 := BitVec.lt_of_getLsbD hdown
    obtain ⟨ks, hks⟩ := State.pressedKeys_of_lowest (k := ⟨k, hk⟩) hdown fun j hj => hlow j hj
    obtain ⟨hget, hpc, hframe⟩ := s.setV_advanceOne_frame x (BitVec.ofNat 8 k)
    exact ⟨_, exec_ldVxK_of_cons x _ ks s hks, by rw [hget, key_toNat ⟨k, hk⟩], Nat.le_of_lt_succ hk, hpc, hframe⟩
  case blockedStep =>
    have hexec : exec (.ldVxK x) s = .next s := exec_ldVxK_of_nil x s (s.pressedKeys_nil.2 hnone)
    exact ⟨_, step_of_exec hi hexec hi.running, countDown_toNat _, countDown_toNat _, s.tickTimers_toneEnd_iff,
      s.tickTimers_frame⟩

end Sys2Proof.Proofs
end

section
/-! A Load that fits, and the byte and the word read back from where it wrote (20_memory.md R54, R56, R57). -/

namespace Sys2Proof.Machine

/-- A program that fits below 0x1000 is copied to 0x200 (20_memory.md R56). -/
theorem portLoad_of_fits {bytes : List Byte} (s : State) (hfit : loadBase + bytes.length ≤ memSize) :
    portLoad bytes s = .next { s with mem := memPutAll s.mem loadBase bytes } := if_pos hfit

/-- The byte stored `j` places after the first is read back there. -/
theorem memByte_memPutAll_of_getElem? {m : Memory} {a j : Nat} {bytes : List Byte} {b : Byte}
    (hwf : Memory.wf m = true) (hfit : a + bytes.length ≤ memSize) (hb : bytes[j]? = some b) :
    memByte (memPutAll m a bytes) (a + j) = b := by
  rw [memByte_memPutAll m a (a + j) bytes hwf hfit, if_pos (Nat.le_add_right a j), Nat.add_sub_cancel_left, hb,
    Option.getD_some]

/-- The word read where two or more bytes were stored is that of the first two. -/
theorem memRead16_memPutAll {m : Memory} {a : Nat} {b0 b1 : Byte} {rest : List Byte} (hwf : Memory.wf m = true)
    (hfit : a + (b0 :: b1 :: rest).length ≤ memSize) :
    memRead16 (memPutAll m a (b0 :: b1 :: rest)) a = .ok (wordOfBytes b0 b1) := by
  have hread : a ≤ 0xFFE := by
    simp only [List.length_cons, memSize] at hfit
    omega
  have h0 : memByte (memPutAll m a (b0 :: b1 :: rest)) a = b0 := memByte_memPutAll_of_getElem? (j := 0) hwf hfit rfl
  have h1 : memByte (memPutAll m a (b0 :: b1 :: rest)) (a + 1) = b1 := memByte_memPutAll_of_getElem? hwf hfit rfl
  rw [memRead16_ok _ a hread, h0, h1]

end Sys2Proof.Machine
end

section
/-! The obligation of the family 70_reset_and_hazards.md on the entry point. -/

namespace Sys2Proof.Proofs

open Sys2Proof.Machine

/-- Settles O21: Load writes from `loadBase` on, the address that Reset puts in pc, and memory after Reset is
canonical, so the fetch reads back the first two bytes. -/
theorem entryPointIsTheLoadedProgram : Obligations.EntryPointIsTheLoadedProgram := by
  refine ⟨State.reset_pc, portReset_pc, fun s b0 b1 rest hlen => ?load⟩
  case load =>
    have hfit : loadBase + (b0 :: b1 :: rest).length ≤ memSize := by
      simp only [List.length_cons, loadBase, memSize]
      omega
    have hwf : Memory.wf (portReset s).mem = true := rfl
    exact ⟨_, portLoad_of_fits _ hfit, portReset_pc s, memRead16_memPutAll hwf hfit⟩

end Sys2Proof.Proofs
end

section
/-! Encoding and decoding as inverses, and the words that dispatch to nothing (30_encoding.md sections 2 to 4). -/

namespace Sys2Proof

/-! The word of each format decodes as its fields dispatch (R72, R74). -/

theorem decode_encNNN {op : Nat} {nnn : Addr12} {i : Instr}
    (hd : ∀ f : Fields, f.op.val = op % 16 → f.nnn = nnn → dispatch true f = some i) :
    decode (encNNN op nnn) = .ok i := by
  obtain ⟨hop, hnnn⟩ := fields_encNNN op nnn
  exact decode_of_dispatch _ _ (hd _ hop hnnn)

theorem decode_encXKK {op : Nat} {x : Reg} {kk : Byte} {i : Instr}
    (hd : ∀ f : Fields, f.op.val = op % 16 → f.x = x → f.kk = kk → dispatch true f = some i) :
    decode (encXKK op x kk) = .ok i := by
  obtain ⟨hop, hx, hkk⟩ := fields_encXKK op x kk
  exact decode_of_dispatch _ _ (hd _ hop hx hkk)

theorem decode_encXYN {op n : Nat} {x y : Reg} {i : Instr}
    (hd : ∀ f : Fields, f.op.val = op % 16 → f.x = x → f.y = y → f.n.val = n % 16 → dispatch true f = some i) :
    decode (encXYN op x y n) = .ok i := by
  obtain ⟨hop, hx, hy, hn⟩ := fields_encXYN op x y n
  exact decode_of_dispatch _ _ (hd _ hop hx hy hn)

/-- Decoding is a left inverse of encoding: family by family, the sub-key that the encoder writes is the one that the
dispatch selects on. -/
theorem decode_encode (i : Instr) (hwf : i.WellFormed) : decode (encode i) = .ok i := by
  cases i with
  | cls | ret => exact decode_encNNN fun f hop hnnn => by simp [dispatch, dispatch0, hop, hnnn]
  | jp nnn | call nnn | ldI nnn | jpV0 nnn => exact decode_encNNN fun f hop hnnn => by simp [dispatch, hop, hnnn]
  | seImm x kk | sneImm x kk | ldImm x kk | addImm x kk | rnd x kk =>
    exact decode_encXKK fun f hop hx hkk => by simp [dispatch, hop, hx, hkk]
  | seReg x y | sneReg x y =>
    exact decode_encXYN fun f hop hx hy hn => by simp [dispatch, dispatchXY0, hop, hx, hy, Fin.ext_iff, hn]
  | ldReg x y | orReg x y | andReg x y | xorReg x y | addReg x y | subReg x y | subnReg x y =>
    exact decode_encXYN fun f hop hx hy hn => by simp [dispatch, dispatch8, hop, hx, hy, hn]
  | shr x | shl x => exact decode_encXYN fun f hop hx _ hn => by simp [dispatch, dispatch8, hop, hx, hn]
  | drw x y n =>
    have hle : n ≤ 15 := of_decide_eq_true hwf
    exact decode_encXYN fun f hop hx hy hn => by
      simp [dispatch, hop, hx, hy, hn, Nat.mod_eq_of_lt (Nat.lt_succ_of_le hle)]
  | skp x | sknp x => exact decode_encXKK fun f hop hx hkk => by simp [dispatch, dispatchE, hop, hx, hkk]
  | ldVxDT x | ldVxK x | ldDTVx x | ldSTVx x | addI x | ldF x =>
    exact decode_encXKK fun f hop hx hkk => by simp [dispatch, dispatchF, hop, hx, hkk]

/-! The words that no member of a family takes (R77). -/

/-- A word is refused exactly when its fields dispatch to nothing. -/
theorem decode_eq_unknown_iff (w : Word) :
    decode w = .error (.unknownOpcode w) ↔ dispatch true (fields w) = none := by
  refine ⟨fun h => (decode_error w _ h).2, fun h => ?_⟩
  simp [decode, decodeWith, Config.strictDecode, h]

theorem dispatch0_eq_none_iff (nnn : Addr12) : dispatch0 nnn = none ↔ nnn ≠ 0x0E0 ∧ nnn ≠ 0x0EE := by
  unfold dispatch0
  split_ifs with h1 h2 <;> simp_all

theorem dispatchXY0_eq_none_iff (n : Fin 16) (i : Instr) : dispatchXY0 true n i = none ↔ n.val ≠ 0 := by
  simp [dispatchXY0]

theorem dispatch8_eq_none_iff (x y : Reg) (n : Fin 16) :
    dispatch8 x y n = none ↔ 8 ≤ n.val ∧ n.val ≠ 0xE := by
  unfold dispatch8
  split <;> simp_all
  omega

theorem dispatchE_eq_none_iff (x : Reg) (kk : Byte) : dispatchE x kk = none ↔ kk ≠ 0x9E ∧ kk ≠ 0xA1 := by
  unfold dispatchE
  split_ifs with h1 h2 <;> simp_all

theorem dispatchF_eq_none_iff (x : Reg) (kk : Byte) :
    dispatchF x kk = none ↔ kk ≠ 0x07 ∧ kk ≠ 0x0A ∧ kk ≠ 0x15 ∧ kk ≠ 0x18 ∧ kk ≠ 0x1E ∧ kk ≠ 0x29 := by
  unfold dispatchF
  split_ifs <;> simp_all

/-- The fields that dispatch to nothing: six families have such words (R77). -/
theorem dispatch_eq_none_iff (f : Fields) :
    dispatch true f = none ↔
      (f.op.val = 0x0 ∧ f.nnn ≠ 0x0E0 ∧ f.nnn ≠ 0x0EE) ∨ (f.op.val = 0x5 ∧ f.n.val ≠ 0) ∨
      (f.op.val = 0x8 ∧ 8 ≤ f.n.val ∧ f.n.val ≠ 0xE) ∨ (f.op.val = 0x9 ∧ f.n.val ≠ 0) ∨
      (f.op.val = 0xE ∧ f.kk ≠ 0x9E ∧ f.kk ≠ 0xA1) ∨
      (f.op.val = 0xF ∧ f.kk ≠ 0x07 ∧ f.kk ≠ 0x0A ∧ f.kk ≠ 0x15 ∧ f.kk ≠ 0x18 ∧ f.kk ≠ 0x1E ∧ f.kk ≠ 0x29) := by
  unfold dispatch
  split
  case h_16 =>
    have hlt := f.op.isLt
    have hF : f.op.val = 0xF := by grind
    simp [hF, dispatchF_eq_none_iff]
  case h_1 hop => simp [hop, dispatch0_eq_none_iff]
  case h_6 hop | h_10 hop => simp [hop, dispatchXY0_eq_none_iff]
  case h_9 hop => simp [hop, dispatch8_eq_none_iff]
  case h_15 hop => simp [hop, dispatchE_eq_none_iff]
  all_goals
    rename_i hop
    simp [hop]

end Sys2Proof
end

section
/-! The obligations on the decoder and the encoder (30_encoding.md). -/

namespace Sys2Proof.Proofs

open Sys2Proof.Machine

/-- Settles O2, as the decoder's left inverse. -/
theorem decodeOfEncodeIsTheInstruction : Obligations.DecodeOfEncodeIsTheInstruction := decode_encode

/-- Settles O5: a word is refused exactly when its fields dispatch to nothing, and each family says when that is. -/
theorem unknownWordsByFamily : Obligations.UnknownWordsByFamily := fun w =>
  (decode_eq_unknown_iff w).trans (dispatch_eq_none_iff (fields w))

/-- Settles O1, by evaluating the decoder on each of the words. -/
theorem wordsOfEveryFamilyDecode : Obligations.WordsOfEveryFamilyDecode := by
  unfold Obligations.WordsOfEveryFamilyDecode
  decide

end Sys2Proof.Proofs
end

section
/-! What an instruction can answer, said once: fault entry from the pre-state, or one of the updates below; and, from
that, what an instruction leaves as it was (10_state.md section 8, 40_decode_dispatch.md section 4). -/

namespace Sys2Proof.Machine

/-- The next states that an instruction which writes the registers `regs` and the parts `parts`, and pc, can answer
from `s` without raising a fault: one constructor per shape of update, with the bounds that a jump, a call and an index
write keep (10_state.md R23, R24, R36). -/
inductive State.Update (s : State) : List Reg → List Part → State → Prop
  /-- one general register -/
  | reg (x : Reg) (b : Byte) : s.Update [x] [] (s.setV x b).advanceOne
  /-- 8XY4 -/
  | resultThenFlag (x : Reg) (r : Byte) (f : Bool) : s.Update [x, VF] [] (s.resultThenFlag x r f).advanceOne
  /-- 8XY5, 8XY6, 8XY7 and 8XYE -/
  | flagThenResult (x : Reg) (r : Byte) (f : Bool) : s.Update [x, VF] [] (s.flagThenResult x r f).advanceOne
  /-- CXKK -/
  | random (x : Reg) (b : Byte) : s.Update [x] [.rndDraws] (s.drawRnd.setV x b).advanceOne
  /-- a skip, taken or not -/
  | skip (c : Bool) : s.Update [] [] (s.skipIf c)
  /-- 1NNN and BNNN -/
  | jump (a : Word) (ha : a.toNat ≤ 0x10FE) : s.Update [] [] (s.jump a)
  /-- 2NNN with a free slot -/
  | call (a : Word) (ha : a.toNat ≤ 0x10FE) (h : s.sp.val < Config.stackDepth) : s.Update [] [.stack]
      ({ s with stk := s.stk.set s.sp.val s.pc h, sp := ⟨s.sp.val + 1, Nat.succ_lt_succ h⟩ }.jump a)
  /-- 00EE with `j + 1` live entries -/
  | ret (j : Nat) (h : j < Config.stackDepth) (hsp : s.sp.val = j + 1) : s.Update [] [.stack]
      ({ s with sp := ⟨j, Nat.lt_succ_of_lt h⟩ }.jump (s.stk[j]'h)).advanceOne
  /-- ANNN, FX1E and FX29 -/
  | index (a : Word) (ha : a.toNat ≤ 0xFFF) : s.Update [] [.i] { s with i := a }.advanceOne
  /-- FX15 -/
  | delay (b : Byte) : s.Update [] [.dt] { s with dt := b }.advanceOne
  /-- FX18 -/
  | sound (b : Byte) : s.Update [] [.st] { s with st := b }.advanceOne
  /-- 00E0 -/
  | clear : s.Update [] [.fb] s.clearFb.advanceOne
  /-- DXYN -/
  | draw (fb : Framebuffer) (f : Bool) : s.Update [VF] [.fb] ({ s with fb := fb }.setV VF (flagByte f)).advanceOne
  /-- FX0A while no key is down -/
  | wait (x : Reg) : s.Update [x] [] s

/-- `t` has the memory, the keys and the latch of `s`. -/
structure State.Kept (s t : State) : Prop where
  mem : t.mem = s.mem
  keys : t.keys = s.keys
  halted : t.halted = s.halted
  faultCode : t.faultCode = s.faultCode
  faultInfo : t.faultInfo = s.faultInfo

/-! The values that reach I and pc are in range. -/

theorem zext16_le (nnn : Addr12) : (zext16 nnn).toNat ≤ 0xFFF := by
  have hn := nnn.isLt
  rw [zext16_toNat]
  omega

/-- The glyph address of every byte fits 12 bits (43_index_timers.md R162). -/
theorem glyph_toNat (b : Byte) : (BitVec.ofNat 16 (5 * b.toNat)).toNat = 5 * b.toNat := by
  have hb := b.isLt
  rw [BitVec.toNat_ofNat]
  omega

/-! The instructions with more than one answer. -/

theorem exec_ret_cases (s : State) :
    (∃ c, exec .ret s = .next (s.enterFault c)) ∨ ∃ t, exec .ret s = .next t ∧ s.Update [] [.stack] t := by
  rcases Nat.eq_zero_or_eq_succ_pred s.sp.val with hsp | hsp
  · exact .inl ⟨_, exec_ret_of_underflow s _ (s.pop_of_empty hsp)⟩
  · have hlt : s.sp.val.pred < Config.stackDepth := by have := s.sp.isLt; omega
    exact .inr ⟨_, exec_ret_of_pop s _ _ (s.pop_of_depth _ hlt hsp), .ret _ hlt hsp⟩

theorem exec_call_cases (nnn : Addr12) (s : State) :
    (∃ c, exec (.call nnn) s = .next (s.enterFault c)) ∨
      ∃ t, exec (.call nnn) s = .next t ∧ s.Update [] [.stack] t := by
  rcases s.push_cases s.pc with ⟨hlt, hpush⟩ | ⟨-, hpush⟩
  · exact .inr ⟨_, exec_call_of_push nnn s _ hpush, .call _ ((zext16_le nnn).trans (by decide)) hlt⟩
  · exact .inl ⟨_, exec_call_of_overflow nnn s _ hpush⟩

theorem exec_drw_cases (x y : Reg) (n : Nat) (s : State) :
    (∃ c, exec (.drw x y n) s = .next (s.enterFault c)) ∨
      ∃ t, exec (.drw x y n) s = .next t ∧ s.Update [VF] [.fb] t := by
  rcases spriteCause_cases s.i.toNat n with ⟨-, hnone⟩ | ⟨-, -, hsome⟩
  · exact .inr ⟨_, exec_drw_of_none x y n s hnone, .draw _ _⟩
  · exact .inl ⟨_, exec_drw_of_some x y n s _ hsome⟩

theorem exec_ldVxK_update (x : Reg) (s : State) : ∃ t, exec (.ldVxK x) s = .next t ∧ s.Update [x] [] t := by
  cases hk : s.pressedKeys with
  | nil => exact ⟨_, exec_ldVxK_of_nil x s hk, .wait x⟩
  | cons k ks => exact ⟨_, exec_ldVxK_of_cons x k ks s hk, .reg x _⟩

/-- Every instruction has a next state in every state: fault entry from the pre-state, or an update of its write set. -/
theorem exec_cases (i : Instr) (s : State) :
    (∃ c, exec i s = .next (s.enterFault c)) ∨ ∃ t, exec i s = .next t ∧ s.Update i.writesV i.writesPart t := by
  cases i with
  | cls => exact .inr ⟨_, rfl, .clear⟩
  | ret => exact exec_ret_cases s
  | call nnn => exact exec_call_cases nnn s
  | drw x y n => exact exec_drw_cases x y n s
  | ldVxK x => exact .inr (exec_ldVxK_update x s)
  | jp nnn => exact .inr ⟨_, rfl, .jump _ ((zext16_le nnn).trans (by decide))⟩
  | jpV0 nnn =>
    have hb := (s.getV 0).isLt
    have hn := nnn.isLt
    exact .inr ⟨_, rfl, .jump _ (by rw [byte_add_addr_toNat]; omega)⟩
  | seImm x kk | sneImm x kk | seReg x y | sneReg x y | skp x | sknp x => exact .inr ⟨_, rfl, .skip _⟩
  | ldImm x kk | addImm x kk | ldReg x y | orReg x y | andReg x y | xorReg x y | ldVxDT x =>
    exact .inr ⟨_, rfl, .reg _ _⟩
  | addReg x y => exact .inr ⟨_, rfl, .resultThenFlag _ _ _⟩
  | subReg x y | shr x | subnReg x y | shl x => exact .inr ⟨_, rfl, .flagThenResult _ _ _⟩
  | rnd x kk => exact .inr ⟨_, rfl, .random _ _⟩
  | ldI nnn => exact .inr ⟨_, rfl, .index _ (zext16_le nnn)⟩
  | addI x => exact .inr ⟨_, rfl, .index _ (by rw [word_mod_4096_toNat]; omega)⟩
  | ldF x =>
    have hb := (s.getV x).isLt
    exact .inr ⟨_, rfl, .index _ (by rw [glyph_toNat]; omega)⟩
  | ldDTVx x => exact .inr ⟨_, rfl, .delay _⟩
  | ldSTVx x => exact .inr ⟨_, rfl, .sound _⟩

/-- The same, read from the answer. -/
theorem update_of_exec {i : Instr} {s t : State} (h : exec i s = .next t) :
    (∃ c, t = s.enterFault c) ∨ s.Update i.writesV i.writesPart t := by
  rcases exec_cases i s with ⟨c, hc⟩ | ⟨u, hu, hupdate⟩
  · rw [h] at hc
    exact .inl ⟨c, Host.Outcome.next.inj hc⟩
  · rw [h] at hu
    exact .inr (Host.Outcome.next.inj hu ▸ hupdate)

/-! Frames. -/

theorem State.changesOnly_self (s : State) (rs : List Reg) (ps : List Part) : s.changesOnly s rs ps :=
  ⟨fun _ _ => rfl, fun p _ => by cases p <;> simp [State.sameIn]⟩

/-- A call that raises nothing writes the stack and pc (41_control_flow.md R110, R113). -/
theorem State.pushed_frame (s : State) (stk : Vector Word Config.stackDepth) (sp : Fin (Config.stackDepth + 1))
    (a : Word) : s.changesOnly ({ s with stk := stk, sp := sp }.jump a) [] [.pc, .stack] :=
  State.changesOnly_of_v _ _ _ rfl fun p hp => by cases p <;> simp_all [State.sameIn]

/-- A draw writes the framebuffer, VF and pc (44_graphics.md R187). -/
theorem State.drawn_frame (s : State) (fb : Framebuffer) (b : Byte) :
    s.changesOnly ({ s with fb := fb }.setV VF b).advanceOne [VF] [.pc, .fb] := by
  have hfb : s.changesOnly { s with fb := fb } [] [.fb] :=
    State.changesOnly_of_v _ _ _ rfl fun p hp => by cases p <;> simp_all [State.sameIn]
  obtain ⟨-, -, hreg⟩ := State.setV_advanceOne_frame { s with fb := fb } VF b
  exact State.changesOnly_mono _ _ _ _ _ _ (State.changesOnly_append hfb hreg) (by simp) (by simp)

/-- A random byte in a register: the draw and then the write, whose frames add up (42_alu.md R142). -/
theorem State.random_frame (s : State) (x : Reg) (b : Byte) :
    s.changesOnly (s.drawRnd.setV x b).advanceOne [x] [.pc, .rndDraws] := by
  obtain ⟨-, -, hreg⟩ := s.drawRnd.setV_advanceOne_frame x b
  exact State.changesOnly_mono _ _ _ _ _ _ (State.changesOnly_append s.drawRnd_frame hreg) (by simp) (by simp)

section

variable {s t : State} {rs : List Reg} {ps : List Part}

/-- An update stays inside its write set and pc. -/
theorem State.Update.frame (h : s.Update rs ps t) : s.changesOnly t rs (.pc :: ps) := by
  cases h with
  | reg x b => exact (s.setV_advanceOne_frame x b).2.2
  | resultThenFlag x r f => exact (s.flagWrite_frame _ x r f (.inl rfl)).2
  | flagThenResult x r f => exact (s.flagWrite_frame _ x r f (.inr rfl)).2
  | random x b => exact s.random_frame x b
  | skip c => exact s.skipIf_frame c
  | jump a _ => exact s.jump_frame a
  | call a _ _ => exact s.pushed_frame _ _ a
  | ret j _ _ => exact s.unwind_frame _ _
  | index a _ => exact s.setI_advanceOne_frame a
  | delay b => exact s.setDT_advanceOne_frame b
  | sound b => exact s.setST_advanceOne_frame b
  | clear => exact s.clearFb_advanceOne_frame
  | draw fb f => exact s.drawn_frame fb _
  | wait x => exact s.changesOnly_self _ _

/-- No update touches memory, the keys or the latch. -/
theorem State.Update.kept (h : s.Update rs ps t) : s.Kept t := by
  cases h <;> constructor <;> simp

end

end Sys2Proof.Machine
end

section
/-! What a Step can do, said once: nothing on a HALTED core, fault entry, or the update of the next instruction and
then the tick (40_decode_dispatch.md R90, R96 to R98). -/

namespace Sys2Proof.Machine

theorem step_of_halted {s : State} (h : s.halted = true) : step s = .next { s with toneEnd := false } := by
  rw [step, executeInstruction, if_pos h, finish_next, State.endStep_halted s h]

theorem step_of_fetch_error {s : State} {c : Cause} (hrun : s.halted = false) (hfetch : s.fetch = .error c) :
    step s = .next (s.enterFault c).endStep := by
  simp [step, executeInstruction, hrun, hfetch]

/-- A word that is fetched and selects no instruction (R93). -/
theorem step_of_unknown {s : State} {w : Word} (hrun : s.halted = false) (hfetch : s.fetch = .ok w)
    (hdecode : decode w = .error (.unknownOpcode w)) : step s = .next (s.enterFault (.unknownOpcode w)).endStep := by
  simp [step, executeInstruction, hrun, hfetch, executeWord, hdecode]

/-- A Step whose instruction answers a next state ends that state. -/
theorem step_of_exec_next {s t : State} {i : Instr} (hi : s.NextInstr i) (hexec : exec i s = .next t) :
    step s = .next t.endStep := by
  rw [step, executeInstruction_of_next s i hi, hexec, finish_next]

/-- A running core meets a fault before dispatch, or has a next instruction. -/
theorem step_before_dispatch {s : State} (hrun : s.halted = false) :
    (∃ c, step s = .next (s.enterFault c).endStep) ∨ ∃ i, s.NextInstr i := by
  rcases s.fetch_cases with ⟨hpc, hfetch⟩ | ⟨-, hfetch⟩
  · cases hdecode : decode (wordOfBytes (memByte s.mem s.pc.toNat) (memByte s.mem (s.pc.toNat + 1))) with
    | ok i => exact .inr ⟨i, hrun, hpc, hdecode⟩
    | error e =>
      obtain ⟨rfl, -⟩ := decode_error _ e hdecode
      exact .inl ⟨_, step_of_unknown hrun hfetch hdecode⟩
  · exact .inl ⟨_, step_of_fetch_error hrun hfetch⟩

/-- Everything a Step can do. It has a next state in every state. -/
theorem step_cases (s : State) :
    (s.halted = true ∧ step s = .next { s with toneEnd := false }) ∨
    (s.halted = false ∧ ∃ c, step s = .next (s.enterFault c).endStep) ∨
    (s.halted = false ∧ ∃ i t, s.NextInstr i ∧ s.Update i.writesV i.writesPart t ∧ step s = .next t.tickTimers) := by
  rcases Bool.eq_false_or_eq_true s.halted with hhalted | hrun
  · exact .inl ⟨hhalted, step_of_halted hhalted⟩
  rcases step_before_dispatch hrun with hfault | ⟨i, hi⟩
  · exact .inr (.inl ⟨hrun, hfault⟩)
  · rcases exec_cases i s with ⟨c, hexec⟩ | ⟨t, hexec, hupdate⟩
    · exact .inr (.inl ⟨hrun, c, step_of_exec_next hi hexec⟩)
    · exact .inr (.inr ⟨hrun, i, t, hi, hupdate, step_of_exec hi hexec (hupdate.kept.halted.trans hrun)⟩)

/-- The same, read from the answer. -/
theorem eq_of_step {s t : State} (h : step s = .next t) :
    (s.halted = true ∧ t = { s with toneEnd := false }) ∨
    (s.halted = false ∧ ∃ c, t = (s.enterFault c).endStep) ∨
    (s.halted = false ∧ ∃ i u, s.NextInstr i ∧ s.Update i.writesV i.writesPart u ∧ t = u.tickTimers) := by
  have answer : ∀ {u}, step s = .next u → t = u := fun hu => Host.Outcome.next.inj (h.symm.trans hu)
  rcases step_cases s with ⟨hhalted, hs⟩ | ⟨hrun, c, hs⟩ | ⟨hrun, i, u, hi, hupdate, hs⟩
  · exact .inl ⟨hhalted, answer hs⟩
  · exact .inr (.inl ⟨hrun, c, answer hs⟩)
  · exact .inr (.inr ⟨hrun, i, u, hi, hupdate, answer hs⟩)

/-! The end of a Step that raises a fault (60_exceptions.md R218, R219). -/

theorem State.clearTone_frame (s : State) : s.changesOnly { s with toneEnd := false } [] [.toneEnd] :=
  State.changesOnly_of_v _ _ _ rfl fun p hp => by cases p <;> simp_all [State.sameIn]

@[simp] theorem State.endStep_enterFault (s : State) (c : Cause) :
    (s.enterFault c).endStep = { s.enterFault c with toneEnd := false } := State.endStep_halted _ rfl

/-- A faulting Step writes the latch and clears the output pulse. -/
theorem State.faultStep_frame (s : State) (c : Cause) :
    s.changesOnly (s.enterFault c).endStep [] [.latch, .toneEnd] := by
  rw [State.endStep_enterFault]
  exact State.changesOnly_append (s.enterFault_frame c) (State.clearTone_frame _)

/-- The codes of the four causes (60_exceptions.md R210). -/
theorem Cause.code_range (c : Cause) : 1 ≤ c.code.toNat ∧ c.code.toNat ≤ 4 := by
  cases c <;> simp [Cause.code]

end Sys2Proof.Machine
end

section
/-! The invariant of every run (10_state.md sections 3 and 4). -/

namespace Sys2Proof.Machine

/-- Adding to a pc from which a word can be fetched does not leave 16 bits (10_state.md R24). -/
theorem word_add_toNat {a b : Word} (ha : a.toNat ≤ 0xFFE) (hb : b.toNat ≤ 4) :
    (a + b).toNat = a.toNat + b.toNat := by
  rw [BitVec.toNat_add]
  omega

/-- The live entries of the stack are addresses of fetched instructions (41_control_flow.md R114). -/
def State.StackSound (s : State) : Prop :=
  ∀ (j : Nat) (h : j < Config.stackDepth), j < s.sp.val → (s.stk[j]'h).toNat ≤ 0xFFE

section

variable {s t : State} {rs : List Reg} {ps : List Part}

theorem State.Update.i_le (h : s.Update rs ps t) (hi : s.i.toNat ≤ 0xFFF) : t.i.toNat ≤ 0xFFF := by
  cases h with
  | index a ha => exact ha
  | _ => simpa using hi

/-- An instruction ends at most four bytes on, at the target of a jump, or behind a call (10_state.md R24). -/
theorem State.Update.pc_le (h : s.Update rs ps t) (hpc : s.pc.toNat ≤ 0xFFE) (hstk : s.StackSound) :
    t.pc.toNat ≤ 0x10FE := by
  have hone : (s.pc + 2).toNat = s.pc.toNat + 2 := word_add_toNat hpc (by decide)
  have htwo : (s.pc + 4).toNat = s.pc.toNat + 4 := word_add_toNat hpc (by decide)
  cases h with
  | jump a ha | call a ha _ => exact ha
  | ret j hj hsp =>
    have hlive : (s.stk[j]'hj).toNat ≤ 0xFFE := hstk j hj (by omega)
    have hnext : (s.stk[j]'hj + 2).toNat = (s.stk[j]'hj).toNat + 2 := word_add_toNat hlive (by decide)
    simp only [State.advanceOne_pc, State.jump_pc]
    omega
  | skip c => cases c <;> simp <;> omega
  | wait x => omega
  | _ => simp; omega

/-- A call pushes the pc of the call; every other update leaves the entries that stay live alone. -/
theorem State.Update.stackSound (h : s.Update rs ps t) (hpc : s.pc.toNat ≤ 0xFFE) (hstk : s.StackSound) :
    t.StackSound := by
  intro j hj hlive
  cases h with
  | call a _ _ =>
    simp only [State.jump_sp, State.jump_stk] at hlive ⊢
    rw [Vector.getElem_set]
    split
    · exact hpc
    · exact hstk j hj (by omega)
  | ret k _ hsp =>
    simp only [State.advanceOne_sp, State.jump_sp] at hlive
    exact hstk j hj (by omega)
  | skip c => cases c <;> exact hstk j hj hlive
  | _ => exact hstk j hj hlive

/-- An update of a state from which a word was fetched keeps the invariant. -/
theorem State.Update.inv (h : s.Update rs ps t) (hinv : s.Inv) (hpc : s.pc.toNat ≤ 0xFFE) : t.Inv := by
  have hkept : s.Kept t := h.kept
  exact {
    i_le := h.i_le hinv.i_le
    pc_le := h.pc_le hpc hinv.stk_le
    stk_le := h.stackSound hpc hinv.stk_le
    mem_wf := hkept.mem ▸ hinv.mem_wf
    running := by rw [hkept.halted, hkept.faultCode, hkept.faultInfo]; exact hinv.running
    stopped := by rw [hkept.halted, hkept.faultCode]; exact hinv.stopped }

end

variable {s : State}

/-- Fault entry latches one of the four causes. -/
theorem State.Inv.enterFault (h : s.Inv) (c : Cause) : (s.enterFault c).Inv :=
  ⟨h.i_le, h.pc_le, h.stk_le, h.mem_wf, nofun, fun _ => c.code_range⟩

/-! The end of a Step writes nothing that the invariant speaks of. -/

theorem State.Inv.clearTone (h : s.Inv) : State.Inv { s with toneEnd := false } :=
  ⟨h.i_le, h.pc_le, h.stk_le, h.mem_wf, h.running, h.stopped⟩

theorem State.Inv.tickTimers (h : s.Inv) : s.tickTimers.Inv :=
  ⟨h.i_le, h.pc_le, h.stk_le, h.mem_wf, h.running, h.stopped⟩

end Sys2Proof.Machine
end

section
/-! The obligations on the Step: totality, faults, write sets and the invariant (10_state.md, 40_decode_dispatch.md,
60_exceptions.md). -/

namespace Sys2Proof.Proofs

open Sys2Proof.Machine

/-- Settles O20: a HALTED core keeps everything, a fault writes the latch, and the update of an instruction keeps each
of the bounds. -/
theorem stepKeepsTheInvariant : Obligations.StepKeepsTheInvariant := by
  intro s t hinv hstep
  rcases eq_of_step hstep with ⟨-, rfl⟩ | ⟨-, c, rfl⟩ | ⟨-, i, u, hi, hupdate, rfl⟩
  · exact hinv.clearTone
  · rw [State.endStep_enterFault]
    exact (hinv.enterFault c).clearTone
  · exact (hupdate.inv hinv hi.fetchable).tickTimers

end Sys2Proof.Proofs
end

section
/-! What the Step obligations need besides: which instruction writes ST, the flag byte, the idle loop's word, and
memory after reset (10_state.md sections 8 and 9, 20_memory.md section 2, 40_decode_dispatch.md R101). -/

namespace Sys2Proof

open Machine

/-- FX18 alone writes ST (43_index_timers.md R165). -/
theorem Instr.st_notMem_writesPart (i : Instr) (hi : ∀ x, i ≠ .ldSTVx x) : Part.st ∉ i.writesPart := by
  cases i with
  | ldSTVx x => exact absurd rfl (hi x)
  | _ => simp [Instr.writesPart]

end Sys2Proof

namespace Sys2Proof.Machine

/-- A flag is 0 or 1 in VF (10_state.md R22). -/
theorem flagByte_zero_or_one (f : Bool) : flagByte f = 0 ∨ flagByte f = 1 := by
  cases f with
  | false => exact .inl rfl
  | true => exact .inr rfl

/-- DXYN whose sprite lies in MEM completes (44_graphics.md R187). -/
theorem exec_drw_of_fits {s : State} {n : Nat} (x y : Reg) (hfits : s.SpriteFits n) :
    exec (.drw x y n) s =
      .next ({ s with fb := (s.blit x y n).fb }.setV VF (flagByte (s.blit x y n).hit)).advanceOne := by
  rcases spriteCause_cases s.i.toNat n with ⟨-, hnone⟩ | ⟨hn, hout, -⟩
  · exact exec_drw_of_none x y n s hnone
  · rcases hfits with hzero | hle <;> omega

/-- A running core that ends its Step running has executed its next instruction and then ticked. -/
theorem update_of_step_running {s t : State} {i : Instr} (hi : s.NextInstr i) (hstep : step s = .next t)
    (ht : t.halted = false) : ∃ u, s.Update i.writesV i.writesPart u ∧ t = u.tickTimers := by
  obtain ⟨u, hexec, rfl⟩ := executeInstruction_of_step_running hstep ht
  rw [executeInstruction_of_next s i hi] at hexec
  rcases update_of_exec hexec with ⟨c, rfl⟩ | hupdate
  · cases ht
  · exact ⟨u, hupdate, rfl⟩

/-- The bytes of the idle loop are the word of the jump to its own address (40_decode_dispatch.md R101). -/
theorem wordOfBytes_idle (a : Nat) (ha : a ≤ 0xFFE) :
    wordOfBytes (BitVec.ofNat 8 (0x10 ||| (a >>> 8))) (BitVec.ofNat 8 (a &&& 0xFF)) =
      encode (.jp (BitVec.ofNat 12 a)) := by
  have hshift : a >>> 8 = a / 256 := Nat.shiftRight_eq_div_pow a 8
  have hor : 0x10 ||| a / 256 = 0x10 + a / 256 := (Nat.two_pow_add_eq_or_of_lt (i := 4) (by omega) 1).symm
  apply BitVec.eq_of_toNat_eq
  rw [wordOfBytes_toNat, encode, encNNN_toNat, and_0xFF, hshift, hor]
  simp only [BitVec.toNat_ofNat]
  omega

theorem State.IdleAt.nextInstr {s : State} {a : Nat} (h : s.IdleAt a) : s.NextInstr (.jp (BitVec.ofNat 12 a)) where
  running := h.running
  fetchable := h.pc_eq ▸ h.fetchable
  decodes := by rw [h.pc_eq, h.first, h.second, wordOfBytes_idle a h.fetchable, decode_encode _ rfl]

/-! Memory that lists nothing (20_memory.md R52; 10_state.md R38). -/

/-- Above the font an unlisted byte is RESET_FILL. -/
theorem unlisted_eq_zero {a : Nat} (ha : 0x050 ≤ a) : unlisted a = 0 :=
  List.getD_eq_default _ _ ha

/-- A glyph is four columns wide: the low nibble of every byte of the font is 0 (R53), and so is RESET_FILL's. -/
theorem unlisted_low_nibble (a : Nat) : (unlisted a).toNat % 16 = 0 := by
  have hfont : ∀ b ∈ font, b.toNat % 16 = 0 := by decide
  by_cases ha : a < font.length
  · rw [unlisted, List.getD_eq_getElem _ _ ha]
    exact hfont _ (List.getElem_mem ha)
  · rw [unlisted_eq_zero (Nat.le_of_not_lt ha)]
    rfl

end Sys2Proof.Machine
end

section
/-! The obligations on the Step: what it runs, its faults, its write sets and its idle loop. -/

namespace Sys2Proof.Proofs

open Sys2Proof.Machine

/-- Settles O10: both faults are taken before dispatch, from the pre-state, and a faulting Step writes the latch and the
output pulse. -/
theorem faultsBeforeDispatchHaltTheCore : Obligations.FaultsBeforeDispatchHaltTheCore := by
  refine ⟨fun s hrun hout => ?fetch, fun s hrun hin hdecode => ?unknown⟩
  case fetch =>
    have hpc := s.pc.isLt
    refine ⟨_, step_of_fetch_error hrun (memRead16_error s.mem s.pc.toNat hout), rfl, rfl, ?_, rfl,
      s.faultStep_frame _⟩
    exact (BitVec.toNat_ofNat _ _).trans (Nat.mod_eq_of_lt (by omega))
  case unknown =>
    exact ⟨_, step_of_unknown hrun (memRead16_ok s.mem s.pc.toNat hin) hdecode, rfl, rfl, rfl, rfl,
      s.faultStep_frame _⟩

/-- Settles O12: of the three things a Step can do, only fault entry halts a running core. -/
theorem faultingStepChangesOnlyTheLatch : Obligations.FaultingStepChangesOnlyTheLatch := by
  intro s t hrun hstep ht
  rcases eq_of_step hstep with ⟨hhalted, -⟩ | ⟨-, c, rfl⟩ | ⟨-, i, u, -, hupdate, rfl⟩
  · simp [hrun] at hhalted
  · exact ⟨rfl, s.faultStep_frame c, c.code_range⟩
  · simp [hupdate.kept.halted, hrun] at ht

/-- Settles O13: each of the three things a Step can do is a next state. -/
theorem everyStepHasANextState : Obligations.EveryStepHasANextState := by
  intro s
  rcases step_cases s with ⟨-, h⟩ | ⟨-, _, h⟩ | ⟨-, _, _, -, -, h⟩ <;> exact ⟨_, h⟩

/-- Settles O14, by the frame of an update. -/
theorem writeSetOfEveryInstruction : Obligations.WriteSetOfEveryInstruction := by
  intro i s t hexec
  rcases update_of_exec hexec with hfault | hupdate
  · exact .inr hfault
  · exact .inl hupdate.frame

/-- Settles O15: the frame of the update and the frame of the tick add up. -/
theorem writeSetOfEveryStep : Obligations.WriteSetOfEveryStep := by
  intro i s t hi hstep ht
  obtain ⟨u, hupdate, rfl⟩ := update_of_step_running hi hstep ht
  refine State.changesOnly_mono _ _ _ _ _ _ (State.changesOnly_append hupdate.frame u.tickTimers_frame) (by simp) ?_
  intro p hp
  simp only [List.cons_append, List.mem_cons, List.mem_append] at hp ⊢
  tauto

/-- Settles O16: neither the latch, nor an update, nor the tick touches memory or the keys. -/
theorem noStepWritesMemoryOrKeys : Obligations.NoStepWritesMemoryOrKeys := by
  intro s t hstep
  rcases eq_of_step hstep with ⟨-, rfl⟩ | ⟨-, c, rfl⟩ | ⟨-, i, u, -, hupdate, rfl⟩
  · exact ⟨rfl, rfl⟩
  · exact ⟨rfl, rfl⟩
  · exact ⟨hupdate.kept.mem, hupdate.kept.keys⟩

/-- Settles O17: outside its write set an instruction changes no register, and the flag writers write a flag byte. -/
theorem onlyFlagWritersTouchVF : Obligations.OnlyFlagWritersTouchVF := by
  refine ⟨fun i s t hexec hVF => ?others, fun x y s t hx hexec => ?alu, fun x y n s hfits => ?draw⟩
  case others =>
    rcases update_of_exec hexec with ⟨c, rfl⟩ | hupdate
    · rw [State.getV_enterFault]
    · exact hupdate.frame.1 VF hVF
  case alu =>
    have hresultFirst : ∀ r f, (s.resultThenFlag x r f).advanceOne.getV VF = flagByte f := fun r f => by
      simp [State.getV_resultThenFlag]
    have hflagFirst : ∀ r f, (s.flagThenResult x r f).advanceOne.getV VF = flagByte f := fun r f => by
      simp [State.getV_flagThenResult, hx.symm]
    rcases hexec with hexec | hexec | hexec | hexec | hexec <;> obtain rfl := Host.Outcome.next.inj hexec
    · exact hresultFirst _ _ ▸ flagByte_zero_or_one _
    all_goals exact hflagFirst _ _ ▸ flagByte_zero_or_one _
  case draw =>
    refine ⟨_, exec_drw_of_fits x y hfits, ?_⟩
    rw [State.getV_advanceOne, State.getV_setV_same]
    exact flagByte_zero_or_one _

/-- Settles O18: the word at pc is the jump to pc, so the Step is that jump, which changes nothing, and the tick. -/
theorem idleLoopStaysIdle : Obligations.IdleLoopStaysIdle := by
  intro s a hidle
  have hjump : s.jump (zext16 (BitVec.ofNat 12 a)) = s := by
    have hpc : zext16 (BitVec.ofNat 12 a) = s.pc := by
      apply BitVec.eq_of_toNat_eq
      rw [zext16_toNat, BitVec.toNat_ofNat, hidle.pc_eq, Nat.mod_eq_of_lt (by have := hidle.fetchable; omega)]
    rw [hpc, State.jump]
  have hexec : exec (.jp (BitVec.ofNat 12 a)) s = .next s := congrArg _ hjump
  exact ⟨_, step_of_exec hidle.nextInstr hexec hidle.running,
    ⟨hidle.fetchable, hidle.pc_eq, hidle.first, hidle.second, hidle.running⟩, s.tickTimers_frame⟩

/-- Settles O48: an instruction other than FX18 leaves ST to the tick. -/
theorem toneEndsWhenSoundTimerRunsOut : Obligations.ToneEndsWhenSoundTimerRunsOut := by
  intro i s t hi hne hstep ht
  obtain ⟨u, hupdate, rfl⟩ := update_of_step_running hi hstep ht
  have hst : u.st = s.st := hupdate.frame.2 .st (by simp [i.st_notMem_writesPart hne])
  exact ⟨hst ▸ u.tickTimers_toneEnd_iff, hst ▸ countDown_toNat u.st⟩

/-- Settles O7: ExecuteInstruction is `exec`, and the Step ends what that answers. -/
theorem stepRunsTheDecodedInstruction : Obligations.StepRunsTheDecodedInstruction := by
  refine fun s i hi => ⟨executeInstruction_of_next s i hi, fun t hexec => ⟨step_of_exec hi hexec, fun ht => ?_⟩⟩
  rw [step_of_exec_next hi hexec, State.endStep_halted t ht]

/-- Settles O9: the frame of fault entry, and the codes read off the definition. -/
theorem faultEntryWritesOnlyTheLatch : Obligations.FaultEntryWritesOnlyTheLatch :=
  ⟨fun s c => ⟨rfl, s.enterFault_frame c⟩, fun _ _ => ⟨rfl, rfl, rfl, rfl, rfl, rfl, rfl, rfl⟩⟩

/-- Settles O11: a HALTED core's Step only clears the output pulse, and Reset takes HALTED from the reset state. -/
theorem haltedCoreDoesNothing : Obligations.HaltedCoreDoesNothing :=
  ⟨fun s hhalted => ⟨_, step_of_halted hhalted, rfl, s.clearTone_frame⟩, fun _ => rfl⟩

end Sys2Proof.Proofs
end

section
/-! The obligations on reset and the font (10_state.md section 9, 20_memory.md section 2). -/

namespace Sys2Proof.Proofs

open Sys2Proof.Machine

/-- Settles O19: no stack entry is live after reset, and the rest is read off the reset values. -/
theorem resetSatisfiesTheInvariant : Obligations.ResetSatisfiesTheInvariant where
  i_le := by decide
  pc_le := by decide
  stk_le := fun _ _ hlive => absurd hlive (Nat.not_lt_zero _)
  mem_wf := rfl
  running := fun _ => ⟨rfl, rfl⟩
  stopped := nofun

/-- Settles O22, field by field. -/
theorem resetClearsEverythingButKeys : Obligations.ResetClearsEverythingButKeys := fun s =>
  ⟨portReset_getV s, rfl, rfl, State.reset_stk, rfl, rfl, fun _ => BitVec.getLsbD_zero, fun _ => unlisted_eq_zero, rfl,
   rfl, rfl, rfl, rfl, rfl⟩

/-- Settles O23: memory after Reset lists nothing, so it reads as the font, and no Step writes a byte. -/
theorem fontIsInPlaceAndStays : Obligations.FontIsInPlaceAndStays := by
  refine ⟨rfl, fun d row _ _ => unlisted_low_nibble _, fun _ _ _ => rfl, fun s t hstep a _ => ?_⟩
  rw [(noStepWritesMemoryOrKeys s t hstep).1]

end Sys2Proof.Proofs
end

section
/-! The stack after a push, the shifts as numbers, and the answers of a call and of the skips (41_control_flow.md,
42_alu.md section 3). -/

namespace Sys2Proof.Machine

/-- A push with a free slot (41_control_flow.md R110). -/
theorem State.push_of_free (s : State) (a : Word) (h : s.sp.val < Config.stackDepth) :
    s.push a = .ok { s with stk := s.stk.set s.sp.val a h, sp := ⟨s.sp.val + 1, Nat.succ_lt_succ h⟩ } := dif_pos h

/-- A push on a full stack raises StackOverflow (R110). -/
theorem State.push_of_full (s : State) (a : Word) (h : s.sp.val = Config.stackDepth) :
    s.push a = .error .stackOverflow := dif_neg (by omega)

/-- A skip on the opposite of a condition (45_keypad.md R202). -/
theorem State.skipIf_not_pc (s : State) (c : Bool) : (s.skipIf (!c)).pc = if c then s.pc + 2 else s.pc + 4 := by
  cases c <;> rfl

/-! The answer of an instruction that writes its flag first: the result stands in V[x] (42_alu.md R147). -/

theorem State.flagThenResult_answer (s : State) (x : Reg) (r : Byte) (f : Bool) (t : State)
    (ht : t = (s.flagThenResult x r f).advanceOne) :
    t.getV x = r ∧ (x ≠ VF → t.getV VF = flagByte f) ∧ t.pc = s.pc + 2 ∧ s.changesOnly t [x, VF] [.pc] := by
  subst ht
  refine ⟨?result, fun hx => ?flag, s.flagWrite_frame _ x r f (.inr rfl)⟩
  case result => rw [State.getV_advanceOne, State.getV_flagThenResult, if_pos rfl]
  case flag => rw [State.getV_advanceOne, State.getV_flagThenResult, if_neg hx.symm, if_pos rfl]

theorem byte_shiftRight_one_toNat (b : Byte) : (b >>> 1).toNat = b.toNat / 2 := by
  rw [BitVec.toNat_ushiftRight, Nat.shiftRight_eq_div_pow, Nat.pow_one]

theorem byte_shiftLeft_one_toNat (b : Byte) : (b <<< 1).toNat = 2 * b.toNat % 256 := by
  rw [BitVec.toNat_shiftLeft, Nat.shiftLeft_eq, Nat.pow_one, Nat.mul_comm]

/-- The bit that 8XY6 shifts out is the parity of its operand (42_alu.md R139). -/
theorem flagByte_bitOutRight_toNat (b : Byte) : (flagByte (bitOutRight b)).toNat = b.toNat % 2 := by
  have h : bitOutRight b = decide (b.toNat % 2 = 1) := by
    simp [bitOutRight, BitVec.getLsbD, Nat.testBit_zero]
  rw [h, flagByte_decide_toNat]
  split <;> omega

/-- The bit that 8XYE shifts out is the top bit of its operand (42_alu.md R141). -/
theorem flagByte_bitOutLeft_toNat (b : Byte) : (flagByte (bitOutLeft b)).toNat = b.toNat / 128 := by
  have hb := b.isLt
  have h : bitOutLeft b = decide (b.toNat / 128 = 1) := by
    simp [bitOutLeft, BitVec.getLsbD, Nat.testBit_eq_decide_div_mod_eq]
    omega
  rw [h, flagByte_decide_toNat]
  split <;> omega

end Sys2Proof.Machine
end

section
/-! The obligations on calls, skips, shifts, the ALU's laws and the glyph address (41_control_flow.md, 42_alu.md,
43_index_timers.md section 1, 45_keypad.md section 2). -/

namespace Sys2Proof.Proofs

open Sys2Proof.Machine

/-- Settles O25, by the two answers of a push. -/
theorem callPushesItsOwnAddress : Obligations.CallPushesItsOwnAddress := by
  refine ⟨DecodesAs.call, fun nnn s => ⟨fun hfree => ?free, fun hfull => ?full⟩⟩
  case free =>
    refine ⟨_, exec_call_of_push nnn s _ (s.push_of_free s.pc hfree), zext16_toNat nnn, rfl, fun j hj => ?_,
      s.pushed_frame _ _ _⟩
    simp only [State.jump_stk, Vector.getElem_set, eq_comm]
  case full =>
    exact ⟨_, exec_call_of_overflow nnn s _ (s.push_of_full s.pc hfull), rfl, rfl, rfl, rfl⟩

/-- Settles O27: the return pops the entry that the call has pushed, and no entry below it was written. -/
theorem callThenReturnComesBack : Obligations.CallThenReturnComesBack := by
  intro nnn s hfree
  refine ⟨_, _, exec_call_of_push nnn s _ (s.push_of_free s.pc hfree),
    exec_ret_of_pop _ _ _ (State.pop_of_depth _ s.sp.val hfree rfl), ?pc, rfl, fun j hj hlive => ?stk, ?frame⟩
  case pc => simp only [State.advanceOne_pc, State.jump_pc, State.jump_stk, Vector.getElem_set_self]
  case stk =>
    simp only [State.advanceOne_stk, State.jump_stk]
    exact Vector.getElem_set_ne _ _ (by omega)
  case frame =>
    exact State.changesOnly_mono _ _ _ _ _ _
      (State.changesOnly_append (s.pushed_frame _ _ _) (State.unwind_frame _ _ _)) (by simp) (by simp)

/-- Settles O30: both skips end in `skipIf`, under opposite conditions, and strict decode refuses the other words. -/
theorem skipsOnARegister : Obligations.SkipsOnARegister := by
  refine ⟨DecodesAs.seReg, DecodesAs.sneReg, fun w hop hn => ?refused, fun x y s =>
    ⟨⟨_, rfl, ?eqPc, s.skipIf_frame _⟩, ⟨_, rfl, ?nePc, s.skipIf_frame _⟩⟩⟩
  case refused =>
    have hw := w.isLt
    refine (unknownWordsByFamily w).2 ?_
    rw [fields_op, fields_n]
    omega
  case eqPc => simp only [State.skipIf_pc, decide_eq_true_eq]
  case nePc => simp only [State.skipIf_pc, decide_eq_true_eq, ne_eq, ite_not]

/-- Settles O38: the result is written last, and the flag is the bit that halving loses. -/
theorem shiftRightByOne : Obligations.ShiftRightByOne := by
  refine ⟨DecodesAs.shr, fun x s => ⟨_, rfl, ?_⟩⟩
  obtain ⟨hx, hVF, hrest⟩ := s.flagThenResult_answer x (s.getV x >>> 1) (bitOutRight (s.getV x)) _ rfl
  exact ⟨by rw [hx, byte_shiftRight_one_toNat], fun hne => by rw [hVF hne, flagByte_bitOutRight_toNat], hrest⟩

/-- Settles O39: the result is written last, and the flag is the bit that doubling loses. -/
theorem shiftLeftByOne : Obligations.ShiftLeftByOne := by
  refine ⟨DecodesAs.shl, fun x s => ⟨_, rfl, ?_⟩⟩
  obtain ⟨hx, hVF, hrest⟩ := s.flagThenResult_answer x (s.getV x <<< 1) (bitOutLeft (s.getV x)) _ rfl
  exact ⟨by rw [hx, byte_shiftLeft_one_toNat], fun hne => by rw [hVF hne, flagByte_bitOutLeft_toNat], hrest⟩

/-- Settles O41: each law is arithmetic on what the instruction leaves in V[x] and VF. -/
theorem aluResultIsRecoverable : Obligations.AluResultIsRecoverable := by
  intro x y s hne
  have hx := (s.getV x).isLt
  have hy := (s.getV y).isLt
  refine ⟨?sub, ?subn, ?add, ?shr, ?shl⟩
  case sub =>
    obtain ⟨t, ht, hres, hflag, -⟩ := subtractSetsNoBorrowFirst.2 x y s
    exact ⟨t, ht, by rw [hres, hflag hne]; split <;> omega⟩
  case subn =>
    obtain ⟨t, ht, hres, hflag, -⟩ := reverseSubtractSetsNoBorrowFirst.2 x y s
    exact ⟨t, ht, by rw [hres, hflag hne]; split <;> omega⟩
  case add =>
    obtain ⟨t, ht, hflag, hres, -⟩ := addSetsCarryLast.2 x y s
    exact ⟨t, ht, by rw [hres hne, hflag]; split <;> omega⟩
  case shr =>
    obtain ⟨t, ht, hres, hflag, -⟩ := shiftRightByOne.2 x s
    exact ⟨t, ht, by rw [hres, hflag hne]; omega⟩
  case shl =>
    obtain ⟨t, ht, hres, hflag, -⟩ := shiftLeftByOne.2 x s
    exact ⟨t, ht, by rw [hres, hflag hne]; omega⟩

/-- Settles O44: five times a byte fits 16 bits, so writing it to I loses nothing. -/
theorem glyphAddressIsFiveTimesTheDigit : Obligations.GlyphAddressIsFiveTimesTheDigit :=
  ⟨DecodesAs.ldF, fun _ s => ⟨_, rfl, glyph_toNat _, rfl, s.setI_advanceOne_frame _⟩⟩

/-- Settles O55: both skips end in `skipIf`, on the level of one key and on its opposite. -/
theorem skipsOnAKey : Obligations.SkipsOnAKey :=
  ⟨DecodesAs.skp, DecodesAs.sknp, fun _ s =>
    ⟨⟨_, rfl, s.skipIf_pc _, s.skipIf_frame _⟩, ⟨_, rfl, s.skipIf_not_pc _, s.skipIf_frame _⟩⟩⟩

end Sys2Proof.Proofs
end

section
/-! Memory and the keys after one move of the host (20_memory.md R54 to R56, 45_keypad.md R200). -/

namespace Sys2Proof.Machine

/-! The bound of an access to one byte (20_memory.md R54). -/

theorem boundCause_one_of_le {a : Nat} (h : a ≤ 0xFFF) : boundCause a 1 = none := if_neg (by omega)

/-- Past MEM the lowest byte of the access is itself the offending one. -/
theorem boundCause_one_of_gt {a : Nat} (h : 0xFFF < a) : boundCause a 1 = some (.outOfBounds (BitVec.ofNat 16 a)) := by
  rw [boundCause, if_pos (by omega), Nat.max_eq_left (by omega)]

/-! The frames of the host's moves. -/

theorem State.setMem_frame (s : State) (m : Memory) : s.changesOnly { s with mem := m } [] [.mem] :=
  State.changesOnly_of_v _ _ _ rfl fun p hp => by cases p <;> simp_all [State.sameIn]

theorem State.setKeys_frame (s : State) (k : BitVec 16) : s.changesOnly { s with keys := k } [] [.keys] :=
  State.changesOnly_of_v _ _ _ rfl fun p hp => by cases p <;> simp_all [State.sameIn]

/-- The bit of one key (45_keypad.md R200). -/
theorem twoPow_key_getLsbD {j k : Nat} (hj : j < 16) : (BitVec.twoPow 16 k).getLsbD j = decide (j = k) := by
  rw [BitVec.getLsbD_twoPow]
  by_cases hjk : j = k
  · subst hjk
    simp [hj]
  · simp [hjk, Ne.symm hjk]

/-- Storing bytes leaves every byte before and behind them (20_memory.md R56). -/
theorem memByte_memPutAll_outside {m : Memory} {a c : Nat} {bytes : List Byte} (hwf : Memory.wf m = true)
    (hfit : a + bytes.length ≤ memSize) (hc : c < a ∨ a + bytes.length ≤ c) :
    memByte (memPutAll m a bytes) c = memByte m c := by
  rw [memByte_memPutAll m a c bytes hwf hfit]
  rcases hc with hbefore | hbehind
  · rw [if_neg (by omega)]
  · rw [List.getElem?_eq_none (by omega), Option.getD_none, ite_self]

/-! A Load that does not fit (20_memory.md R56, 60_exceptions.md R220). -/

theorem portLoad_of_overflow {bytes : List Byte} {s : State} (hover : memSize < loadBase + bytes.length)
    (hrun : s.halted = false) : portLoad bytes s = .next (s.enterFault (.outOfBounds 0x1000)) := by
  rw [portLoad, if_neg (by omega), if_neg (by simp [hrun])]

theorem portLoad_of_overflow_halted {bytes : List Byte} {s : State} (hover : memSize < loadBase + bytes.length)
    (hhalted : s.halted = true) : portLoad bytes s = .refused .failingLoadWhileHalted := by
  rw [portLoad, if_neg (by omega), if_pos hhalted]

end Sys2Proof.Machine
end

section
/-! The obligations on the host's moves and reads, and on memory (20_memory.md section 3, 44_graphics.md sections 3
and 4, 45_keypad.md section 1). -/

namespace Sys2Proof.Proofs

open Sys2Proof.Machine

/-- Settles O50: a region inside the grid is read cell by cell, and the cells after 00E0 are 0. -/
theorem clearedRegionReadsZero : Obligations.ClearedRegionReadsZero := by
  refine ⟨fun s => ⟨_, rfl, ?cleared⟩, fun s x y n hin => ⟨_, if_pos hin, ?len, fun j hj => ?cell⟩,
    fun s x y n hout => if_neg (by omega)⟩
  case cleared =>
    rw [getRegion, if_pos (by decide)]
    simp only [State.cell_advanceOne, State.cell_clearFb, List.map_const', List.length_range]
  case len => rw [List.length_map, List.length_range]
  case cell => rw [List.getElem_map, List.getElem_range]

/-- Settles O57: a Load that fits stores its bytes at `loadBase`, and one that does not is a fault or a refusal. -/
theorem loadPlacesTheProgram : Obligations.LoadPlacesTheProgram := by
  have hspace : memSize = loadBase + 3584 := rfl
  refine fun s bytes hwf => ⟨fun hlen => ?fits, fun hlen hrun => ?fault, fun hlen hhalted => ?refused⟩
  case fits =>
    have hfit : loadBase + bytes.length ≤ memSize := by omega
    exact ⟨_, portLoad_of_fits s hfit,
      fun j hj => memByte_memPutAll_of_getElem? hwf hfit (List.getElem?_eq_getElem hj),
      fun a ha => memByte_memPutAll_outside hwf hfit ha, Memory.wf_memPutAll _ _ _ hwf hfit, s.setMem_frame _⟩
  case fault =>
    exact ⟨_, portLoad_of_overflow (by omega) hrun, rfl, rfl, rfl, s.enterFault_frame _⟩
  case refused => exact portLoad_of_overflow_halted (by omega) hhalted

/-- Settles O58: bit by bit, press is the OR with one bit and release the AND with its complement. -/
theorem keysChangeOneAtATime : Obligations.KeysChangeOneAtATime := by
  refine fun s k => ⟨fun hk => ⟨_, if_pos hk, fun j hj => ?press, s.setKeys_frame _⟩,
    fun hk => ⟨_, if_pos hk, fun j hj => ?release, s.setKeys_frame _⟩, fun hk => ?refused⟩
  case press =>
    rw [BitVec.getLsbD_or, twoPow_key_getLsbD hj, Bool.or_comm]
  case release =>
    rw [BitVec.getLsbD_and, BitVec.getLsbD_not, twoPow_key_getLsbD hj, decide_eq_true hj, Bool.true_and, Bool.and_comm]
  case refused => exact ⟨if_neg (by omega), if_neg (by omega)⟩

/-- Settles O59: in bounds the write stores the byte, out of bounds both accesses raise the fault of their address. -/
theorem memoryReadsWhatWasWritten : Obligations.MemoryReadsWhatWasWritten := by
  refine fun m a b hwf => ⟨fun hin => ?inside, fun hout => ?outside⟩
  case inside =>
    refine ⟨memPut m a b, ?write, Memory.wf_memPut m a b hwf (Nat.lt_succ_of_le hin), ?read, fun c hc => ?others⟩
    case write => rw [memWrite8, boundCause_one_of_le hin]
    case read => rw [memRead8, boundCause_one_of_le hin, memByte_memPut m a a b hwf, if_pos rfl]
    case others => rw [memByte_memPut m a c b hwf, if_neg hc]
  case outside => exact ⟨by rw [memWrite8, boundCause_one_of_gt hout], by rw [memRead8, boundCause_one_of_gt hout]⟩

end Sys2Proof.Proofs
end

section
/-! The blitter as a list of cells: drawing a sprite toggles the cells under its 1 bits one after another. With no cell
named twice that flips each of them once, and collides when one of them was on (44_graphics.md R182, R183, R187). -/

namespace Sys2Proof.Machine

/-! Toggling a list of cells. -/

/-- Toggling the cells of a list, one after another. -/
def Blit.toggleAll (b : Blit) (cells : List Nat) : Blit := cells.foldl Blit.toggle b

theorem Blit.toggleAll_append (b : Blit) (as bs : List Nat) : b.toggleAll (as ++ bs) = (b.toggleAll as).toggleAll bs :=
  List.foldl_append

/-- The collision seen before is carried along and decides nothing else. -/
theorem Blit.toggleAll_hit_or (fb : Framebuffer) (h : Bool) (as : List Nat) :
    (⟨fb, h⟩ : Blit).toggleAll as =
      ⟨((⟨fb, false⟩ : Blit).toggleAll as).fb, h || ((⟨fb, false⟩ : Blit).toggleAll as).hit⟩ := by
  induction as generalizing fb h with
  | nil => simp [Blit.toggleAll]
  | cons a as ih =>
    simp only [Blit.toggleAll, List.foldl_cons, Blit.toggle, Bool.false_or] at ih ⊢
    rw [ih _ (h || fb.getLsbD a), ih _ (fb.getLsbD a), Bool.or_assoc]

/-- A toggle of another cell leaves a cell alone. -/
theorem Blit.toggle_cell_ne (b : Blit) {a c : Nat} (h : c ≠ a) : (b.toggle a).fb.getLsbD c = b.fb.getLsbD c := by
  simp [Blit.toggle, BitVec.getLsbD_xor, BitVec.getLsbD_twoPow, Ne.symm h]

/-- A list that names no cell twice flips exactly its cells. -/
theorem Blit.toggleAll_cell (b : Blit) {as : List Nat} (hnodup : as.Nodup) {c : Nat} (hc : c < 2048) :
    (b.toggleAll as).fb.getLsbD c = (b.fb.getLsbD c ^^ decide (c ∈ as)) := by
  induction as generalizing b with
  | nil => simp [Blit.toggleAll]
  | cons a as ih =>
    obtain ⟨ha, hnodup'⟩ := List.nodup_cons.1 hnodup
    refine (ih (b.toggle a) hnodup').trans ?_
    rw [Blit.toggle_cell b a c hc]
    by_cases hca : c = a
    · subst hca
      simp [ha]
    · simp [hca]

/-- Such a list collides exactly when one of its cells was on. -/
theorem Blit.toggleAll_hit_iff (b : Blit) {as : List Nat} (hnodup : as.Nodup) :
    (b.toggleAll as).hit = true ↔ b.hit = true ∨ ∃ a ∈ as, b.fb.getLsbD a = true := by
  induction as generalizing b with
  | nil => simp [Blit.toggleAll]
  | cons a as ih =>
    obtain ⟨ha, hnodup'⟩ := List.nodup_cons.1 hnodup
    have hsame : ∀ c ∈ as, (b.toggle a).fb.getLsbD c = b.fb.getLsbD c := fun c hc =>
      b.toggle_cell_ne (ne_of_mem_of_not_mem hc ha)
    have hexists : (∃ c ∈ as, (b.toggle a).fb.getLsbD c = true) ↔ ∃ c ∈ as, b.fb.getLsbD c = true :=
      exists_congr fun c => and_congr_right fun hc => by rw [hsame c hc]
    refine (ih (b.toggle a) hnodup').trans ?_
    rw [hexists, Blit.toggle_hit, Bool.or_eq_true, List.exists_mem_cons_iff, or_assoc]

/-! The cells of a sprite. -/

/-- The cell in column `cx` and row `cy` of an endless plane, wrapped onto the grid (R182, decision D6). -/
def wrapCell (cx cy : Nat) : Nat := cx % 64 + 64 * (cy % 32)

/-- The cells under the 1 bits of a sprite row, left to right (R183). -/
def rowCells (x0 y0 : Nat) (p : Byte) : List Nat :=
  (spriteCols.filter fun col => p.getLsbD (7 - col)).map fun col => wrapCell (x0 + col) y0

/-- The cells under the 1 bits of a sprite, top to bottom (R187). -/
def spriteCells (vx vy : Nat) : List Byte → List Nat
  | [] => []
  | p :: rest => rowCells vx vy p ++ spriteCells vx (vy + 1) rest

theorem setSpriteRow_eq (x0 y0 : Nat) (p : Byte) (fb : Framebuffer) :
    setSpriteRow x0 y0 p fb = (⟨fb, false⟩ : Blit).toggleAll (rowCells x0 y0 p) := by
  rw [Blit.toggleAll, rowCells, List.foldl_map, List.foldl_filter]
  rfl

theorem drawRows_eq (vx vy : Nat) (rows : List Byte) (b : Blit) :
    drawRows vx vy rows b = b.toggleAll (spriteCells vx vy rows) := by
  induction rows generalizing vy b with
  | nil => rfl
  | cons p rest ih =>
    rw [drawRows_cons, ih, spriteCells, Blit.toggleAll_append, setSpriteRow_eq, ← Blit.toggleAll_hit_or]

theorem mem_spriteCols {col : Nat} : col ∈ spriteCols ↔ col < 8 := by
  simp only [spriteCols, List.mem_cons, List.not_mem_nil, or_false]
  omega

theorem mem_rowCells {x0 y0 a : Nat} {p : Byte} :
    a ∈ rowCells x0 y0 p ↔ ∃ col, col < 8 ∧ p.getLsbD (7 - col) = true ∧ a = wrapCell (x0 + col) y0 := by
  simp only [rowCells, List.mem_map, List.mem_filter, mem_spriteCols, and_assoc, eq_comm]

/-- The eight columns of a row fall on eight cells. -/
theorem rowCells_nodup (x0 y0 : Nat) (p : Byte) : (rowCells x0 y0 p).Nodup := by
  refine List.Nodup.map_on (fun col hcol col' hcol' heq => ?_) ((by decide : spriteCols.Nodup).filter _)
  have hlt : col < 8 := mem_spriteCols.1 (List.mem_of_mem_filter hcol)
  have hlt' : col' < 8 := mem_spriteCols.1 (List.mem_of_mem_filter hcol')
  simp only [wrapCell] at heq
  omega

theorem mem_spriteCells {vx vy a : Nat} {rows : List Byte} :
    a ∈ spriteCells vx vy rows ↔ ∃ (row : Nat) (h : row < rows.length) (col : Nat), col < 8 ∧
      rows[row].getLsbD (7 - col) = true ∧ a = wrapCell (vx + col) (vy + row) := by
  induction rows generalizing vy with
  | nil => simp [spriteCells]
  | cons p rest ih =>
    rw [spriteCells, List.mem_append, mem_rowCells, ih]
    constructor
    · rintro (⟨col, hcol⟩ | ⟨row, hrow, col, hcol, hbit, ha⟩)
      · exact ⟨0, Nat.succ_pos _, col, hcol⟩
      · exact ⟨row + 1, Nat.succ_lt_succ hrow, col, hcol, hbit, by rw [ha, Nat.add_right_comm vy 1 row, Nat.add_assoc]⟩
    · rintro ⟨row, hrow, col, hcol, hbit, ha⟩
      cases row with
      | zero => exact .inl ⟨col, hcol, hbit, ha⟩
      | succ row =>
        exact .inr ⟨row, Nat.lt_of_succ_lt_succ hrow, col, hcol, hbit,
          by rw [ha, Nat.add_right_comm vy 1 row, Nat.add_assoc]⟩

/-- Up to 32 rows fall on rows of the grid that differ. -/
theorem spriteCells_nodup (vx vy : Nat) {rows : List Byte} (hlen : rows.length ≤ 32) :
    (spriteCells vx vy rows).Nodup := by
  induction rows generalizing vy with
  | nil => exact List.nodup_nil
  | cons p rest ih =>
    rw [List.length_cons] at hlen
    refine List.Nodup.append (rowCells_nodup vx vy p) (ih (vy + 1) (by omega)) fun a hfirst hrest => ?_
    obtain ⟨col, -, -, ha⟩ := mem_rowCells.1 hfirst
    obtain ⟨row, hrow, col', -, -, ha'⟩ := mem_spriteCells.1 hrest
    simp only [wrapCell] at ha ha'
    omega

/-! What DXYN draws. -/

/-- The cells that DXYN toggles from `s` (R187, R188). -/
def State.drawnCells (s : State) (x y : Reg) (n : Nat) : List Nat :=
  spriteCells (s.getV x).toNat (s.getV y).toNat (memBytes s.mem s.i.toNat n)

theorem State.blit_eq (s : State) (x y : Reg) (n : Nat) :
    s.blit x y n = (⟨s.fb, false⟩ : Blit).toggleAll (s.drawnCells x y n) := drawRows_eq _ _ _ _

variable {s : State} {x y : Reg} {n : Nat}

theorem State.mem_drawnCells {a : Nat} : a ∈ s.drawnCells x y n ↔ s.SpriteOn x y n a := by
  rw [State.drawnCells, mem_spriteCells, State.SpriteOn]
  constructor
  · rintro ⟨row, hrow, col, hcol, hbit, ha⟩
    rw [memBytes_getElem] at hbit
    exact ⟨row, col, by rwa [memBytes_length] at hrow, hcol, ha, hbit⟩
  · rintro ⟨row, col, hrow, hcol, ha, hbit⟩
    exact ⟨row, by rwa [memBytes_length], col, hcol, by rwa [memBytes_getElem], ha⟩

theorem State.drawnCells_nodup (hn : n ≤ 15) : (s.drawnCells x y n).Nodup :=
  spriteCells_nodup _ _ (by rw [memBytes_length]; omega)

theorem State.blit_cell (hn : n ≤ 15) {a : Nat} (ha : a < 2048) :
    (s.blit x y n).fb.getLsbD a = (s.fb.getLsbD a ^^ decide (a ∈ s.drawnCells x y n)) := by
  rw [State.blit_eq, Blit.toggleAll_cell _ (State.drawnCells_nodup hn) ha]

/-- DXYN collides exactly when a cell under a 1 bit was on (R187). -/
theorem State.blit_hit_iff (hn : n ≤ 15) :
    (s.blit x y n).hit = true ↔ ∃ a ∈ s.drawnCells x y n, s.fb.getLsbD a = true := by
  rw [State.blit_eq, Blit.toggleAll_hit_iff _ (State.drawnCells_nodup hn)]
  simp only [Bool.false_eq_true, false_or]

/-- Two states that agree on the coordinates and the sprite bytes toggle the same cells. -/
theorem State.drawnCells_congr {u : State} {x' y' : Reg} (hx : u.getV x' = s.getV x) (hy : u.getV y' = s.getV y)
    (hbytes : ∀ row, row < n → memByte u.mem (u.i.toNat + row) = memByte s.mem (s.i.toNat + row)) :
    u.drawnCells x' y' n = s.drawnCells x y n := by
  have hrows : memBytes u.mem u.i.toNat n = memBytes s.mem s.i.toNat n := by
    refine List.ext_getElem (by simp) fun row hrow hrow' => ?_
    rw [memBytes_getElem, memBytes_getElem]
    exact hbytes row (by rwa [memBytes_length] at hrow)
  rw [State.drawnCells, State.drawnCells, hx, hy, hrows]

theorem State.cell_lt_of_drawn {a : Nat} (ha : a ∈ s.drawnCells x y n) : a < 2048 := by
  obtain ⟨row, col, -, -, rfl, -⟩ := State.mem_drawnCells.1 ha
  omega

/-- A bit that is toggled under a condition is flipped exactly under that condition. -/
theorem xor_decide_eq_not_iff (b : Bool) (p : Prop) [Decidable p] : (b ^^ decide p) = !b ↔ p := by
  cases b <;> simp

theorem flagByte_eq_one_iff (f : Bool) : flagByte f = 1 ↔ f = true := by
  cases f <;> decide

end Sys2Proof.Machine
end

section
/-! The obligations on sprites (44_graphics.md sections 1, 2, 4 and 5). -/

namespace Sys2Proof.Proofs

open Sys2Proof.Machine

/-- Settles O51: a row toggles a list of cells that names none twice. -/
theorem spriteRowTogglesUnderOneBits : Obligations.SpriteRowTogglesUnderOneBits := by
  intro x0 y0 p fb
  rw [setSpriteRow_eq]
  refine ⟨fun a ha => ?flip, ?hit⟩
  case flip =>
    rw [Blit.toggleAll_cell _ (rowCells_nodup x0 y0 p) ha, xor_decide_eq_not_iff, mem_rowCells]
    rfl
  case hit =>
    rw [Blit.toggleAll_hit_iff _ (rowCells_nodup x0 y0 p)]
    constructor
    · rintro (hfalse | ⟨a, ha, hon⟩)
      · cases hfalse
      · obtain ⟨col, hcol, hbit, rfl⟩ := mem_rowCells.1 ha
        exact ⟨col, hcol, hbit, hon⟩
    · rintro ⟨col, hcol, hbit, hon⟩
      exact .inr ⟨_, mem_rowCells.2 ⟨col, hcol, hbit, rfl⟩, hon⟩

/-- Settles O52: DXYN toggles the cells of the whole sprite, none of them twice. -/
theorem drawTogglesCellsAndReportsCollision : Obligations.DrawTogglesCellsAndReportsCollision := by
  refine ⟨DecodesAs.drw, fun x y n s hn hfits => ⟨_, exec_drw_of_fits x y hfits, fun a ha => ?flip, ?hit, ?flag, rfl,
    s.drawn_frame _ _⟩⟩
  case flip =>
    rw [← State.mem_drawnCells, State.cell_advanceOne, State.cell, State.setV_fb, State.blit_cell hn ha]
    exact xor_decide_eq_not_iff _ _
  case hit =>
    rw [State.getV_advanceOne, State.getV_setV_same, flagByte_eq_one_iff, State.blit_hit_iff hn]
    simp only [State.mem_drawnCells]
    rfl
  case flag =>
    rw [State.getV_advanceOne, State.getV_setV_same]
    exact flagByte_zero_or_one _

/-- Settles O53: the range is checked before anything is drawn. -/
theorem drawOutOfBoundsDrawsNothing : Obligations.DrawOutOfBoundsDrawsNothing := by
  intro x y n s hn hout
  rcases spriteCause_cases s.i.toNat n with ⟨hfits, -⟩ | ⟨-, -, hcause⟩
  · omega
  · exact ⟨_, exec_drw_of_some x y n s _ hcause, rfl, rfl, rfl, s.enterFault_frame _⟩

/-- Settles O54: both draws toggle the same cells, so the second undoes the first, and its collisions are the cells that
the first has turned on. -/
theorem drawingTwiceRestores : Obligations.DrawingTwiceRestores := by
  intro x y x' y' n s u hn hfits hfits' hx hy hbytes
  refine ⟨_, exec_drw_of_fits x y hfits, fun hfb => ?_⟩
  have hcells : u.drawnCells x' y' n = s.drawnCells x y n := State.drawnCells_congr hx hy hbytes
  have hfirst : ∀ {a}, a < 2048 → u.fb.getLsbD a = (s.fb.getLsbD a ^^ decide (a ∈ s.drawnCells x y n)) := fun ha =>
    hfb ▸ State.blit_cell hn ha
  refine ⟨_, exec_drw_of_fits x' y' hfits', ?restored, ?hit⟩
  case restored =>
    refine BitVec.eq_of_getLsbD_eq fun a ha => (State.blit_cell hn ha).trans ?_
    rw [hfirst ha, hcells, Bool.xor_assoc, Bool.xor_self, Bool.xor_false]
  case hit =>
    rw [State.getV_advanceOne, State.getV_setV_same, flagByte_eq_one_iff, State.blit_hit_iff hn, hcells]
    refine exists_congr fun a => ?_
    rw [← State.mem_drawnCells]
    refine and_congr_right fun ha => ?_
    rw [hfirst (State.cell_lt_of_drawn ha), decide_eq_true ha, Bool.xor_true, Bool.not_eq_true', State.cell]

end Sys2Proof.Proofs
end
